-- ==== Sys2Proof/Word.lean ====
section
/-! DEFINITION. The values the fields of the block hold.
A field's width is a parameter of the session (00_scope.md R5), the rules do exact arithmetic on natural numbers
(R9: "no rule depends on wrap-around") and an address is an opaque key (20_memory.md R51), so a value is a natural
number and its width is a bound on it. -/
namespace Sys2Proof

/-- The value fits a field of `width` bits: it is one of `0 .. 2^width - 1` (00_scope.md R9). -/
abbrev fitsWidth (width v : Nat) : Bool := decide (v < 2 ^ width)

/-- One word of a responder's store, with the address that names it in front (20_memory.md R51). -/
abbrev WordCell := Nat × Nat

/-- The content of one store: the list of its words that differ from what an unlisted address reads as
(`Memory.unlisted` in Machine/Ops.lean), by rising address. Log entry 5. -/
abbrev Memory := List WordCell

/-- Text of the waveform artefact (30_encoding.md R82). -/
abbrev Text := List Char

end Sys2Proof
end

