-- ==== Sys2Proof/Config.lean ====
section
/-! DEFINITION. The parameters of a session (00_scope.md R5 to R8) and the free value of the model. -/
namespace Sys2Proof

/-- A number of wait cycles: a natural number or `NEVER` (10_state.md R28, 42_wait_state_responder.md R149). -/
inductive Wait where
  | num (n : Nat)
  | never
  deriving DecidableEq, Repr, Inhabited

/-- FREE VALUE (log entry 3). The draw `W(k, n)` of responder `k` in its `n`-th transfer, wherever the session gives
none: "a free input of every claim: the rules put no law on it" (42_wait_state_responder.md R149). It has no body. -/
opaque Config.waitDraw : Nat → Nat → Wait

/-- 60_exceptions.md R202: `STALL_BUDGET` is absent. -/
def Config.stallBudget : Option Nat := none

/-- The parameter `W` of one responder: `W[k] = n0, n1, ...` (30_encoding.md R77), then `rest` for every later transfer;
where `rest` is absent the later draws are free. -/
structure Draws where
  listed : List Wait := []
  rest   : Option Wait := none
  deriving DecidableEq, Repr

/-- The deterministic default for tests, `W(k, n) = 0` (42_wait_state_responder.md R149). -/
def Draws.zero : Draws := { rest := some (.num 0) }

/-- The named parameters of the waveform text with the defaults of 30_encoding.md R80 to R83. The last five are the
letter case of a hex literal, the fewest digits it has for each kind of field (R81: no padding), and what ends the text
(R82: nothing). -/
structure WaveStyle where
  clkA      : Char := '1'
  clkB      : Char := '0'
  lvlHi     : Char := '1'
  lvlLo     : Char := '0'
  cont      : Char := '.'
  val       : Char := '='
  clockName : String := "clock"
  hexPrefix : String := "0x"
  itemSep   : String := ", "
  keySep    : String := ": "
  hexUpper      : Bool := false
  addressDigits : Nat := 1
  dataDigits    : Nat := 1
  strobeDigits  : Nat := 1
  lineEnd       : String := ""
  deriving DecidableEq, Repr

/-- The parameters of a session, constant for its life (00_scope.md R5, R7, R8; 10_state.md R34). -/
structure Params where
  /-- `AW`, the width of `address`. -/
  aw : Nat
  /-- `DW`, the width of `write_data` and `read_data`. -/
  dw : Nat
  /-- `NR`, the number of responders. -/
  nr : Nat
  /-- `DW_MAX` (00_scope.md R7). -/
  dwMax : Nat := 32
  /-- The draws `W` of the responders `0, 1, ...`; those of a responder beyond the list are free
  (42_wait_state_responder.md R149). -/
  draws : List Draws := []
  /-- The listed initial words, `store_init[k][a] = v` of 30_encoding.md R77; an address not listed holds 0 (R51). -/
  storeInit : List Memory := []
  wave : WaveStyle := {}
  deriving DecidableEq, Repr

/-- The parameters of `State.reset`: `AW = 16`, `DW = 32`, `NR = 2`, those of the source's Scenario D
(00_scope.md R5; 95_test_vectors.md S-D). DESIGN CHOICE, log entry 1. -/
def Config.resetParams : Params := { aw := 16, dw := 32, nr := 2 }

end Sys2Proof
end

