-- ==== Sys2Proof/Syntax.lean ====
section
/-! DEFINITION. The commands, the names of the bundle's fields and the errors of a request. -/
namespace Sys2Proof

/-- The three values of `req.command` (10_state.md R23, 30_encoding.md R72). -/
inductive Command where
  | idle
  | read
  | write
  deriving DecidableEq, Repr

/-- One Transfer Request as an instruction (30_encoding.md R70), one constructor per row of the opcode table. A row
carries the fields its command ignores too (R73), so that no bit of a packed word is lost. -/
inductive Instr where
  /-- IDLE, `command = 0b00`; ignores every operand. -/
  | idle (responderId address data : Nat)
  /-- READ, `command = 0b01`; ignores `data`. -/
  | read (responderId address data : Nat)
  /-- WRITE, `command = 0b10`. -/
  | write (responderId address data : Nat)
  deriving DecidableEq, Repr

/-- The `command` field of the request. -/
def Instr.command : Instr → Command
  | .idle _ _ _ => .idle
  | .read _ _ _ => .read
  | .write _ _ _ => .write

/-- The `responder_id` field of the request. -/
def Instr.responderId : Instr → Nat
  | .idle r _ _ => r
  | .read r _ _ => r
  | .write r _ _ => r

/-- The `address` field of the request. -/
def Instr.address : Instr → Nat
  | .idle _ a _ => a
  | .read _ a _ => a
  | .write _ a _ => a

/-- The `data` field of the request. -/
def Instr.data : Instr → Nat
  | .idle _ _ d => d
  | .read _ _ d => d
  | .write _ _ d => d

/-- The fields of the Signal Bundle (10_state.md R21). -/
inductive BundleField where
  | address
  | writeEnable
  | select (k : Nat)
  | enable
  | writeData
  | readData
  | ready
  | error
  | strobe
  deriving DecidableEq, Repr

/-- The names the sampler tracks (43_waveform_sampler.md R161). -/
inductive Track where
  | clock
  | field (f : BundleField)
  deriving DecidableEq, Repr

/-- ConfigurationError with the offending field and value, one constructor per test of 44_construction.md R192
(60_exceptions.md R201). -/
inductive ConfigError where
  | dataWidth (v : Nat)
  | addressWidth (v : Nat)
  | responderCount (v : Nat)
  | responderId (v : Nat)
  | address (v : Nat)
  | data (v : Nat)
  | command (v : Nat)
  deriving DecidableEq, Repr

/-- Why a number is not the packed word of a request. -/
inductive DecodeError where
  /-- The spec's ConfigurationError (30_encoding.md R73). -/
  | config (e : ConfigError)
  /-- The number has bits above `REQ_W - 1`, which "do not exist" (30_encoding.md R73): it is no packed word. -/
  | noSuchBits (w : Nat)
  deriving DecidableEq, Repr

end Sys2Proof
end

