-- ==== Sys2Proof/Machine/Widths.lean ====
section
/-! DEFINITION. The widths derived from the parameters (00_scope.md R6, 44_construction.md R191) and the wait draw. -/
namespace Sys2Proof

/-- `ceil(log2(n))`: the least `k` with `2^k >= n` (00_scope.md R6). -/
def clog2 (n : Nat) : Nat := if n ≤ 1 then 0 else Nat.log2 (n - 1) + 1

/-- `ID_W = max(ceil(log2(NR)), 1)` (00_scope.md R6). -/
def Params.idW (p : Params) : Nat := max (clog2 p.nr) 1

/-- `STRB_W = ceil(DW / 8) = (DW + 7) div 8` (00_scope.md R6). -/
def Params.strbW (p : Params) : Nat := (p.dw + 7) / 8

/-- `REQ_W = 2 + ID_W + AW + DW` (30_encoding.md R71). -/
def Params.reqW (p : Params) : Nat := 2 + p.idW + p.aw + p.dw

/-- The bound on `responder_id`: the width of its field for IDLE, which ignores it, and `NR` for READ and WRITE
(30_encoding.md R73, 44_construction.md R192 item 4). -/
def Params.idBound (p : Params) : Command → Nat
  | .idle => 2 ^ p.idW
  | .read => p.nr
  | .write => p.nr

/-- The legal parameter values of 00_scope.md R7. -/
def Params.legal (p : Params) : Bool :=
  decide (1 ≤ p.dw) && decide (p.dw ≤ p.dwMax) && decide (1 ≤ p.aw) && decide (1 ≤ p.nr)

/-- The draw `W(k, n)`: the one the session gives, else the free value (42_wait_state_responder.md R149; log entry 3). -/
def Params.draw (p : Params) (k n : Nat) : Wait :=
  match p.draws[k]? with
  | none => Config.waitDraw k n
  | some w => (w.listed[n]?).getD (w.rest.getD (Config.waitDraw k n))

end Sys2Proof
end

