-- ==== Sys2Proof/WellFormed.lean ====
section
/-! DEFINITION. Which requests are well formed (44_construction.md R192, 30_encoding.md R73). -/
namespace Sys2Proof

/-- The responder id is one the command may name. -/
def Instr.idOk (p : Params) (i : Instr) : Bool := decide (i.responderId < p.idBound i.command)

/-- `address` fits its field (30_encoding.md R70, 44_construction.md R192 item 5). -/
def Instr.addressOk (p : Params) (i : Instr) : Bool := fitsWidth p.aw i.address

/-- `data` fits its field (30_encoding.md R70, 44_construction.md R192 item 6). -/
def Instr.dataOk (p : Params) (i : Instr) : Bool := fitsWidth p.dw i.data

/-- The request is well formed for the session. -/
def Instr.wf (p : Params) (i : Instr) : Bool := i.idOk p && i.addressOk p && i.dataOk p

end Sys2Proof
end

