-- ==== Sys2Proof/Decode.lean ====
section
/-! DEFINITION. The packed form of a request: decoder and encoder (30_encoding.md R71 to R73). -/
namespace Sys2Proof

/-- The slice `w[lo + width - 1 : lo]` (00_scope.md R9). -/
def slice (w lo width : Nat) : Nat := w / 2 ^ lo % 2 ^ width

/-- The number of a command (30_encoding.md R72). -/
def Command.code : Command → Nat
  | .idle => 0
  | .read => 1
  | .write => 2

/-- The command of a number, or ConfigurationError(command, number) (30_encoding.md R72, R73; 44_construction.md R192
item 7). -/
def commandOf (c : Nat) : Except ConfigError Command :=
  if c = 0 then .ok .idle
  else if c = 1 then .ok .read
  else if c = 2 then .ok .write
  else .error (.command c)

/-- A request from its four fields. -/
def mkInstr (c : Command) (responderId address data : Nat) : Instr :=
  match c with
  | .idle => .idle responderId address data
  | .read => .read responderId address data
  | .write => .write responderId address data

/-- The request of the fields a word holds: READ and WRITE name a responder below `NR` (30_encoding.md R73). -/
def decodeFields (p : Params) (c : Command) (responderId address data : Nat) : Except DecodeError Instr :=
  if p.idBound c ≤ responderId then .error (.config (.responderId responderId))
  else .ok (mkInstr c responderId address data)

/-- The decoder of packed words, total on every number: the layout of 30_encoding.md R71, the command map of R72, the
refusals of R73. -/
def decode (p : Params) (w : Nat) : Except DecodeError Instr :=
  if 2 ^ p.reqW ≤ w then .error (.noSuchBits w)
  else
    match commandOf (slice w 0 2) with
    | .error e => .error (.config e)
    | .ok c =>
      decodeFields p c (slice w 2 p.idW) (slice w (p.idW + 2) p.aw) (slice w (p.aw + p.idW + 2) p.dw)

/-- The encoder: `word = {data, address, responder_id, command}` (30_encoding.md R71). -/
def encode (p : Params) (i : Instr) : Nat :=
  i.command.code + i.responderId * 2 ^ 2 + i.address * 2 ^ (p.idW + 2) + i.data * 2 ^ (p.aw + p.idW + 2)

/-- The decoder's reading of an opcode-table word under the parameters of `State.reset`. The request is one word on
the block's command port (10_state.md R23), so nothing is laid out in bytes. -/
def decodeTableWord (nbits w : Nat) : Option Instr :=
  match decode Config.resetParams (w % 2 ^ nbits) with
  | .ok i => some i
  | .error _ => none

end Sys2Proof
end

