-- ==== Sys2Proof/Machine/State.lean ====
section
/-! DEFINITION. The state of a session (10_state.md R20), the reasons a step stops, and the state after reset. -/
namespace Sys2Proof.Machine

/-- The Signal Bundle (10_state.md R21), in declaration order; `select` lists the lines `select[0] .. select[NR-1]`. -/
structure Bundle where
  address     : Nat
  writeEnable : Bool
  select      : List Bool
  enable      : Bool
  writeData   : Nat
  readData    : Nat
  ready       : Bool
  error       : Bool
  strobe      : Nat
  deriving DecidableEq, Repr

/-- The Transfer Request, the block's command input, owned by the host (10_state.md R23). -/
structure Request where
  command     : Command
  address     : Nat
  data        : Nat
  responderId : Nat
  deriving DecidableEq, Repr

/-- The controller's phase, which stands where a processor has a program counter (10_state.md R24, R26). -/
inductive Phase where
  | idle
  | setup
  | access
  deriving DecidableEq, Repr

/-- The controller's registers (10_state.md R24, R25). -/
structure Controller where
  phase  : Phase
  actCmd : Command
  actId  : Nat
  deriving DecidableEq, Repr

/-- The state of one responder (10_state.md R28). -/
structure Responder where
  waitCnt : Wait
  xferN   : Nat
  store   : Memory
  deriving DecidableEq, Repr

/-- A sampled value. The sampler logs `bit` for a boolean and `word` for an unsigned field; `unsupported` is a value
of neither type, which a typed bundle never yields and `render` must refuse (43_waveform_sampler.md R171). -/
inductive Sampled where
  | bit (b : Bool)
  | word (v : Nat)
  | unsupported (what : String)
  deriving DecidableEq, Repr

/-- The log of one tracked name, oldest value first (10_state.md R29). -/
structure Log where
  name   : Track
  values : List Sampled
  deriving DecidableEq, Repr

/-- The recorder (10_state.md R29). -/
structure Recorder where
  count : Nat
  logs  : List Log
  deriving DecidableEq, Repr

/-- One thing the host does in step 1 of a cycle (00_scope.md R11). -/
inductive HostAct where
  /-- It presents a packed request (30_encoding.md R71). -/
  | present (word : Nat)
  /-- It writes the named fields of the request, the others keep their value (30_encoding.md R77); the command by its
  number (R72). -/
  | setRequest (command responderId address data : Option Nat)
  /-- It calls `make_transfer` again and uses the new request (44_construction.md R190). -/
  | makeTransfer (address data addressWidth dataWidth responderCount responderId : Nat)
  /-- It writes a field of the bundle, which it may do to `strobe` only (70_reset_and_hazards.md R230). -/
  | writeBundle (f : BundleField) (v : Nat)
  /-- A second caller steps the block or writes its request concurrently (93_implementation_defined.md U1). -/
  | stepConcurrently
  deriving DecidableEq, Repr

/-- What the host does in one cycle. The default is a cycle in which it only samples once, as it must (R223). -/
structure CycleInput where
  /-- The level of `rst` (70_reset_and_hazards.md R220). -/
  rst : Bool := false
  /-- Its writes, in order (step 1). -/
  acts : List HostAct := []
  /-- Calls of `sample` made before the responders have acted (70_reset_and_hazards.md R223). -/
  earlySamples : Nat := 0
  /-- Calls of `sample` at the end of the cycle (step 4; 43_waveform_sampler.md R163). -/
  samples : Nat := 1
  /-- Whether the host calls `render` after step 4 (43_waveform_sampler.md R165). -/
  render : Bool := false
  deriving DecidableEq, Repr

/-- What a call of `render` returns to the host: the whole artefact, or TraceFormatError with the offending name and value
(43_waveform_sampler.md R165, R171). -/
inductive RenderReply where
  | text (t : Text)
  | traceFormatError (name : Track) (what : String)
  deriving DecidableEq, Repr

/-- The whole state of a session (10_state.md R20), with the parameters it was constructed with, what the host does in
the coming cycles (log entry 4) and what its last call of `render` returned (log entry 19). -/
structure State where
  params     : Params
  bundle     : Bundle
  request    : Request
  ctl        : Controller
  responders : List Responder
  recorder   : Recorder
  inputs     : List CycleInput
  lastRender : Option RenderReply
  deriving DecidableEq, Repr

/-- The three error classes of 60_exceptions.md R200. -/
inductive ErrorClass where
  /-- "fatal, raised at construction": `Fault.configurationError`. -/
  | configurationError
  /-- "not an error in baseline design": raised by nothing, an endless run of `ACCESS` cycles (R202). -/
  | protocolStall
  /-- "fatal at render time": `RenderReply.traceFormatError`. -/
  | traceFormatError
  deriving DecidableEq, Repr

/-- The one error that ends a session, being "fatal, not recoverable" (60_exceptions.md R205). The other one that
is raised, TraceFormatError, is returned to the host by `render` and the session goes on. -/
inductive Fault where
  /-- ConfigurationError (60_exceptions.md R201). Raised by the host's write of the request, by its `make_transfer` and by
  the decoding of the word it presents. `left` is the state as the failing call found and left it: everything before the
  call has taken full effect and the call none (R204). Safe. -/
  | configurationError (e : ConfigError) (left : State)
  deriving DecidableEq, Repr

/-- Sessions to which the spec gives no meaning. Each is safe: the machine stops. -/
inductive Refusal where
  /-- An instruction without a meaning. Raised by no arm: every instruction has one. Safe. -/
  | notModelled (mnemonic : String)
  /-- A READ or WRITE with an ill-formed operand stands in the request at `advance`, which is defined on well-formed
  requests only (44_construction.md R192). Raised by READ and WRITE in phase `IDLE`; out of reach of a host whose writes
  are tested. Log entry 18. Safe. -/
  | requestNotWellFormed (e : ConfigError)
  /-- The host wrote a bundle field it does not own (70_reset_and_hazards.md R230, 93 U3). Raised by the host's act. Safe. -/
  | hostDroveBundle (f : BundleField)
  /-- Two select lines are asserted at step 3 (41_signal_bundle_mux.md R135, 93 U3). Raised by the responders' turn. Safe. -/
  | multipleSelect
  /-- A responder would see `ACCESS` without `SETUP` (42_wait_state_responder.md R152, 93 U3). Raised by the responders'
  turn. Safe. -/
  | accessWithoutSetup
  /-- The bundle breaks 10_state.md R22 in another way, which needs a host that wrote it (70 R230, 93 U3). Raised by the
  responders' turn. Safe. -/
  | bundleDisturbed
  /-- Concurrent stepping (93 U1). Raised by the host's act. Safe. -/
  | concurrentStepping
  /-- The host's value for `strobe` does not fit the field (00_scope.md R9). Raised by the host's act. Safe. -/
  | strobeTooWide (v : Nat)
  /-- The host presented a number with bits above `REQ_W - 1`, which is no packed word (30_encoding.md R73). Raised by the
  host's act. Safe. -/
  | noSuchWord (w : Nat)
  /-- A `make_transfer` within the session with other widths than the session's, which never change
  (44_construction.md R194). Raised by the host's act. Safe. -/
  | otherSession
  deriving DecidableEq, Repr

/-- What an operation of the machine ends in. -/
abbrev Out := Host.Outcome State Fault Refusal

/-- The state right after construction and reset, 10_state.md R32, for the parameters of `Config.resetParams`; the
fresh request holds zeros (log entry 2) and the host has nothing planned (log entry 4). -/
def State.reset : State :=
  { params := Config.resetParams
    bundle :=
      { address := 0, writeEnable := false, select := [false, false], enable := false, writeData := 0,
        readData := 0, ready := false, error := false, strobe := 0 }
    request := { command := .idle, address := 0, data := 0, responderId := 0 }
    ctl := { phase := .idle, actCmd := .idle, actId := 0 }
    responders :=
      [{ waitCnt := .num 0, xferN := 0, store := [] }, { waitCnt := .num 0, xferN := 0, store := [] }]
    recorder :=
      { count := 0
        logs :=
          [⟨.clock, []⟩, ⟨.field .address, []⟩, ⟨.field .writeEnable, []⟩, ⟨.field (.select 0), []⟩,
            ⟨.field (.select 1), []⟩, ⟨.field .enable, []⟩, ⟨.field .writeData, []⟩, ⟨.field .readData, []⟩,
            ⟨.field .ready, []⟩, ⟨.field .error, []⟩, ⟨.field .strobe, []⟩] }
    inputs := []
    lastRender := none }

end Sys2Proof.Machine
end

