-- ==== Sys2Proof/Machine/Ops.lean ====
section
/-! DEFINITION. The shared operations: words of a store, updates of the state, sequencing, and raising an error. -/
namespace Sys2Proof

/-- What an address that no cell names reads as: the default `store_init`, zero (20_memory.md R51). Log entry 5. -/
def Memory.unlisted : Nat := 0

/-- `MemRead` within one store (20_memory.md R51). -/
def Memory.read : Memory → Nat → Nat
  | [], _ => Memory.unlisted
  | (b, w) :: rest, a => if b = a then w else Memory.read rest a

/-- Put a cell in front, unless it holds what an unlisted address reads as. -/
def Memory.cons (a : Nat) (v : Nat) (m : Memory) : Memory := if v = Memory.unlisted then m else (a, v) :: m

/-- `MemWrite` within one store (20_memory.md R51), keeping the canonical form. -/
def Memory.write : Memory → Nat → Nat → Memory
  | [], a, v => Memory.cons a v []
  | (b, w) :: rest, a, v =>
    if a < b then Memory.cons a v ((b, w) :: rest)
    else if a = b then Memory.cons a v rest
    else (b, w) :: Memory.write rest a v

/-- The store whose listed words are those of a list of assignments, the later ones winning. -/
def Memory.ofList (cells : List WordCell) : Memory := cells.foldl (fun m c => Memory.write m c.1 c.2) []

/-- The canonical form: addresses strictly rising, no cell that holds what an unlisted address reads as. -/
def Memory.wf : Memory → Bool
  | [] => true
  | (a, v) :: rest => decide (v ≠ Memory.unlisted) && rest.all (fun c => decide (a < c.1)) && Memory.wf rest

/-- Every cell names one of the `2^AW` addresses and holds a `DW`-bit word (20_memory.md R51). -/
def Memory.within (p : Params) (m : Memory) : Bool := m.all fun c => fitsWidth p.aw c.1 && fitsWidth p.dw c.2

end Sys2Proof

namespace Sys2Proof.Machine

/-! ### Updates of one component -/

/-- Replace the bundle. -/
def State.setBundle (s : State) (b : Bundle) : State := { s with bundle := b }
/-- Replace the request. -/
def State.setRequest (s : State) (q : Request) : State := { s with request := q }
/-- Replace the controller's registers. -/
def State.setCtl (s : State) (c : Controller) : State := { s with ctl := c }
/-- Replace the responders. -/
def State.setResponders (s : State) (rs : List Responder) : State := { s with responders := rs }
/-- Replace the recorder. -/
def State.setRecorder (s : State) (r : Recorder) : State := { s with recorder := r }
/-- Replace the host's plan. -/
def State.setInputs (s : State) (cs : List CycleInput) : State := { s with inputs := cs }
/-- Replace what the host's last call of `render` returned. -/
def State.setLastRender (s : State) (r : Option RenderReply) : State := { s with lastRender := r }

/-! ### Reading -/

/-- `MemRead(k, a)` (00_scope.md R10, 20_memory.md R51); a responder that does not exist has no words. -/
def State.memRead (s : State) (k a : Nat) : Nat :=
  match s.responders[k]? with
  | some r => Memory.read r.store a
  | none => Memory.unlisted

/-- The select line of responder `k` (41_signal_bundle_mux.md R131). -/
def Bundle.sel (b : Bundle) (k : Nat) : Bool := (b.select[k]?).getD false

/-- The request as an instruction. -/
def Request.toInstr (q : Request) : Instr := mkInstr q.command q.responderId q.address q.data

/-- The request an instruction stands for. -/
def requestOf (i : Instr) : Request :=
  { command := i.command, address := i.address, data := i.data, responderId := i.responderId }

/-- The number of a phase (30_encoding.md R74). -/
def Phase.code : Phase → Nat
  | .idle => 0
  | .setup => 1
  | .access => 2

/-! ### Sequencing and errors -/

/-- Do one operation and then another, unless the first stops. -/
def andThen (o : Out) (f : State → Out) : Out :=
  match o with
  | .next s => f s
  | .fault e => .fault e
  | .refused r => .refused r

/-- `raise ConfigurationError(info)` in state `s`: the operation aborts with no effect on any state, so what is left is `s`;
there is no handler, no saved state and no return (00_scope.md R10, 60_exceptions.md R204, R205). -/
def raiseConfiguration (s : State) (e : ConfigError) : Out := .fault (.configurationError e s)

/-- The number of an error class (60_exceptions.md R200). -/
def ErrorClass.number : ErrorClass → Nat
  | .configurationError => 1
  | .protocolStall => 2
  | .traceFormatError => 3

/-- The class of a fault. -/
def Fault.errorClass : Fault → ErrorClass
  | .configurationError _ _ => .configurationError

/-- The class of what `render` returned, if that is an error. -/
def RenderReply.errorClass : RenderReply → Option ErrorClass
  | .text _ => none
  | .traceFormatError _ _ => some .traceFormatError

end Sys2Proof.Machine

namespace Sys2Proof

/-- The sub-cause number of a ConfigurationError (60_exceptions.md R201). -/
def ConfigError.number : ConfigError → Nat
  | .dataWidth _ => 1
  | .addressWidth _ => 2
  | .responderCount _ => 3
  | .responderId _ => 4
  | .address _ => 5
  | .data _ => 6
  | .command _ => 7

end Sys2Proof
end

