-- ==== Sys2Proof/Machine/Operands.lean ====
section
/-! DEFINITION. The operand forms: the one-hot decoding of a responder id (30_encoding.md R75) and the tests on a
request (44_construction.md R192). -/
namespace Sys2Proof.Machine

/-- The responder id decoded over `n` select lines: line `j` is 1 when `j = i` (30_encoding.md R75,
41_signal_bundle_mux.md R131). -/
def oneHot (n i : Nat) : List Bool := (List.range n).map fun j => decide (j = i)

/-- Every select line low. -/
def noSelect (n : Nat) : List Bool := List.replicate n false

/-- The first test of a list that holds, as the error it names (44_construction.md R192 "tested in this order",
60_exceptions.md R207). -/
def firstError : List (Bool × ConfigError) → Option ConfigError
  | [] => none
  | (bad, e) :: rest => if bad then some e else firstError rest

/-- Tests 4 to 6 of 44_construction.md R192 on a request of the session. For IDLE the id need only fit its field
(30_encoding.md R73); no field holds a value wider than itself (00_scope.md R9, 30_encoding.md R75). Log entry 7. -/
def requestTests (p : Params) (c : Command) (responderId address data : Nat) : List (Bool × ConfigError) :=
  [(decide (p.idBound c ≤ responderId), .responderId responderId),
    (!fitsWidth p.aw address, .address address),
    (!fitsWidth p.dw data, .data data)]

/-- Tests 1 to 6 of 44_construction.md R192 on the arguments of `make_transfer`. -/
def makeTransferTests (dwMax address data aw dw nr responderId : Nat) : List (Bool × ConfigError) :=
  [(decide (dw < 1) || decide (dwMax < dw), .dataWidth dw),
    (decide (aw < 1), .addressWidth aw),
    (decide (nr < 1), .responderCount nr),
    (decide (nr ≤ responderId), .responderId responderId),
    (!fitsWidth aw address, .address address),
    (!fitsWidth dw data, .data data)]

/-- Go on only with well-formed operands; else stop with the first offending field. -/
def checked (stop : ConfigError → Out) (tests : List (Bool × ConfigError)) (go : Out) : Out :=
  match firstError tests with
  | some e => stop e
  | none => go

/-- `advance` meets an ill-formed request: it has no error path and no meaning there (40_bus_controller_fsm.md R100, R114;
44_construction.md R192). Log entry 18. -/
def noMeaning (e : ConfigError) : Out := .refused (.requestNotWellFormed e)

end Sys2Proof.Machine
end

