-- ==== Sys2Proof/Machine/Flags.lean ====
section
/-! DEFINITION. The two status bits `ready` and `error` (10_state.md R27) and `read_data`: the ports of the responders
and the return path that writes the three (41_signal_bundle_mux.md R130, R132, R133). There are no other flags. -/
namespace Sys2Proof.Machine

/-- What responder `k` sees (41_signal_bundle_mux.md R130). -/
structure Port where
  sel         : Bool
  enable      : Bool
  writeEnable : Bool
  address     : Nat
  writeData   : Nat
  strobe      : Nat
  deriving DecidableEq, Repr

/-- What a responder drives (41_signal_bundle_mux.md R130). -/
structure Drive where
  ready    : Bool
  readData : Nat
  error    : Bool
  deriving DecidableEq, Repr

/-- A responder driving nothing: `ready_k`, `read_data_k` and `error_k` are 0. -/
def Drive.quiet : Drive := { ready := false, readData := 0, error := false }

/-- The broadcast: only `sel_k` differs between responders (41_signal_bundle_mux.md R132). -/
def Bundle.port (b : Bundle) (k : Nat) : Port :=
  { sel := b.sel k, enable := b.enable, writeEnable := b.writeEnable, address := b.address,
    writeData := b.writeData, strobe := b.strobe }

/-- What the return path takes from responder `k`: its outputs if it is selected, zeros if not. -/
def maskDrive (sel : Bool) (d : Drive) : Drive := if sel then d else Drive.quiet

/-- The OR of two responders' outputs. -/
def orDrive (d e : Drive) : Drive :=
  { ready := d.ready || e.ready, readData := d.readData ||| e.readData, error := d.error || e.error }

/-- The OR over all responders of their outputs masked by the select lines (41_signal_bundle_mux.md R133). -/
def returnPath : List Bool → List Drive → Drive
  | sel :: sels, d :: ds => orDrive (maskDrive sel d) (returnPath sels ds)
  | _, _ => Drive.quiet

/-- The return path writes the three responder-driven fields and nothing else (41_signal_bundle_mux.md R133). -/
def Bundle.drive (b : Bundle) (d : Drive) : Bundle :=
  { b with ready := d.ready, readData := d.readData, error := d.error }

end Sys2Proof.Machine
end

