-- ==== Sys2Proof/Machine/Controller.lean ====
section
/-! DEFINITION. The controller: the meanings of IDLE, READ and WRITE and the phase steps they are made of
(40_bus_controller_fsm.md). A meaning is one `advance` (R100) with that command in the request: in phase `IDLE` it is
the command's own rule, in the other phases the request is not read (R107). -/
namespace Sys2Proof.Machine

/-- Acceptance of a command in phase `IDLE`: the writes that READ and WRITE share (R102, R103). -/
def acceptTransfer (c : Command) (responderId address : Nat) (writeData : Nat) (s : State) : State :=
  { s with
    bundle :=
      { s.bundle with
        address := address
        writeEnable := decide (c = .write)
        select := oneHot s.params.nr responderId
        writeData := writeData }
    ctl := { phase := .setup, actCmd := c, actId := responderId } }

/-- `SETUP → ACCESS` (R104). -/
def setupToAccess (s : State) : State :=
  { s with bundle := { s.bundle with enable := true }, ctl := { s.ctl with phase := .access } }

/-- `ACCESS → ACCESS`, the wait-state loop: no write (R105). -/
def stayInAccess (s : State) : State := s

/-- `ACCESS → IDLE`: deassert `enable` and the select line of the transfer (R106). -/
def accessToIdle (s : State) : State :=
  { s with
    bundle := { s.bundle with enable := false, select := s.bundle.select.set s.ctl.actId false }
    ctl := { s.ctl with phase := .idle, actCmd := .idle } }

/-- The dispatch of `advance` (R100): `atIdle` is what the command does when the phase is `IDLE`. -/
def advance (atIdle : Out) (s : State) : Out :=
  match s.ctl.phase with
  | .idle => atIdle
  | .setup => .next (setupToAccess s)
  | .access => .next (if s.bundle.ready then accessToIdle s else stayInAccess s)

/-- IDLE (R101): no write at all, the operands are ignored. -/
def execIdle (_responderId _address _data : Nat) (s : State) : Out := advance (.next s) s

/-- READ (R102): `data` is ignored and `write_data` keeps its value. `advance` is defined on well-formed requests only
(44_construction.md R192; log entry 18). -/
def execRead (responderId address data : Nat) (s : State) : Out :=
  advance
    (checked noMeaning (requestTests s.params .read responderId address data)
      (.next (acceptTransfer .read responderId address s.bundle.writeData s)))
    s

/-- WRITE (R103). `advance` is defined on well-formed requests only (44_construction.md R192; log entry 18). -/
def execWrite (responderId address data : Nat) (s : State) : Out :=
  advance
    (checked noMeaning (requestTests s.params .write responderId address data)
      (.next (acceptTransfer .write responderId address data s)))
    s

end Sys2Proof.Machine
end

