-- ==== Sys2Proof/Machine/Dispatch.lean ====
section
/-! DEFINITION. One arm per command (40_bus_controller_fsm.md R100). -/
namespace Sys2Proof.Machine

def exec (i : Instr) (s : State) : Host.Outcome State Fault Refusal :=
  match i with
  | .idle responderId address data => Sys2Proof.Machine.execIdle responderId address data s
  | .read responderId address data => Sys2Proof.Machine.execRead responderId address data s
  | .write responderId address data => Sys2Proof.Machine.execWrite responderId address data s

end Sys2Proof.Machine
end

