-- ==== Sys2Proof/Machine/Sampler.lean ====
section
/-! DEFINITION. The waveform sampler: `sample` and `render` (43_waveform_sampler.md, 30_encoding.md R79 to R84). -/
namespace Sys2Proof.Machine

/-! ### What is tracked -/

/-- The bundle fields in declaration order (10_state.md R21). -/
def bundleFields (nr : Nat) : List BundleField :=
  [.address, .writeEnable] ++ (List.range nr).map .select
    ++ [.enable, .writeData, .readData, .ready, .error, .strobe]

/-- The tracked names in order, the clock first (R161). -/
def trackNames (nr : Nat) : List Track := .clock :: (bundleFields nr).map .field

/-- The value of a bundle field, boolean or unsigned (10_state.md R21). -/
def Bundle.value (b : Bundle) : BundleField → Sampled
  | .address => .word b.address
  | .writeEnable => .bit b.writeEnable
  | .select k => .bit (b.sel k)
  | .enable => .bit b.enable
  | .writeData => .word b.writeData
  | .readData => .word b.readData
  | .ready => .bit b.ready
  | .error => .bit b.error
  | .strobe => .word b.strobe

/-- The value logged under a name by the sample of index `count`; the clock's is the index's parity (R162, R164). -/
def trackValue (count : Nat) (b : Bundle) : Track → Sampled
  | .clock => .bit (decide (count % 2 = 1))
  | .field f => b.value f

/-! ### sample -/

/-- `sample(b)`: one value at the end of every log, `count + 1` (R162). -/
def Recorder.sample (b : Bundle) (r : Recorder) : Recorder :=
  { count := r.count + 1
    logs := r.logs.map fun l => { l with values := l.values ++ [trackValue r.count b l.name] } }

/-- `n` calls of `sample` on the same bundle (R163). -/
def Recorder.sampleTimes (b : Bundle) : Nat → Recorder → Recorder
  | 0, r => r
  | n + 1, r => Recorder.sampleTimes b n (r.sample b)

/-- `n` calls of `sample`; they write the recorder only (R160). -/
def sampleTimes (n : Nat) (s : State) : State := s.setRecorder (s.recorder.sampleTimes s.bundle n)

/-! ### Names and hexadecimal -/

/-- The digits of `n` in `base`, most significant first, with at least one digit and at most `fuel + 1`. -/
def digits (base : Nat) : Nat → Nat → Text
  | 0, n => [Nat.digitChar (n % base)]
  | fuel + 1, n => if n < base then [Nat.digitChar n] else digits base fuel (n / base) ++ [Nat.digitChar (n % base)]

/-- The letter case of a hexadecimal digit (30_encoding.md R81, a parameter). -/
def hexCase (w : WaveStyle) (c : Char) : Char := if w.hexUpper then c.toUpper else c

/-- `hex(v)` with at least `fewest` digits: the prefix, leading zeros up to that number, and the digits. With the
defaults, lower-case digits without leading zeros, `0x0` for zero (30_encoding.md R81). -/
def hexLiteral (w : WaveStyle) (fewest v : Nat) : Text :=
  let ds := digits 16 (Nat.log2 v) v
  w.hexPrefix.toList ++ List.replicate (fewest - ds.length) '0' ++ ds.map (hexCase w)

/-- The fewest digits of a name's hex literals (30_encoding.md R81, a parameter; one without padding). -/
def fewestDigits (w : WaveStyle) : Track → Nat
  | .field .address => w.addressDigits
  | .field .writeData => w.dataDigits
  | .field .readData => w.dataDigits
  | .field .strobe => w.strobeDigits
  | .field .writeEnable => 1
  | .field (.select _) => 1
  | .field .enable => 1
  | .field .ready => 1
  | .field .error => 1
  | .clock => 1

/-- A number in decimal without padding (30_encoding.md R83). -/
def decimal (n : Nat) : Text := digits 10 (Nat.log2 n) n

/-- The name of a bundle field in the artefact (30_encoding.md R83). -/
def fieldName : BundleField → Text
  | .address => "address".toList
  | .writeEnable => "write_enable".toList
  | .select k => "select".toList ++ decimal k
  | .enable => "enable".toList
  | .writeData => "write_data".toList
  | .readData => "read_data".toList
  | .ready => "ready".toList
  | .error => "error".toList
  | .strobe => "strobe".toList

/-- The name of an entry; the clock's is `CLOCK_NAME` (30_encoding.md R83). -/
def trackName (w : WaveStyle) : Track → Text
  | .clock => w.clockName.toList
  | .field f => fieldName f

/-! ### Waves -/

/-- The kind of an entry, which follows the type of its field and not its width (R161). -/
inductive Kind where
  | clock
  | level
  | value
  deriving DecidableEq, Repr

/-- The kinds of R161. -/
def trackKind : Track → Kind
  | .clock => .clock
  | .field .address => .value
  | .field .writeEnable => .level
  | .field (.select _) => .level
  | .field .enable => .level
  | .field .writeData => .value
  | .field .readData => .value
  | .field .ready => .level
  | .field .error => .level
  | .field .strobe => .value

/-- The number a supported value stands for; `render` refuses before it asks for an unsupported one (R171). -/
def sampledNumber : Sampled → Nat
  | .bit b => b.toNat
  | .word v => v
  | .unsupported _ => 0

/-- The numbers of a log. -/
def Log.numbers (l : Log) : List Nat := l.values.map sampledNumber

/-- The clock's wave of `n` samples from sample index `i` on (R166). -/
def clockWaveFrom (w : WaveStyle) (i : Nat) : Nat → Text
  | 0 => []
  | n + 1 => (if i % 2 = 0 then w.clkA else w.clkB) :: clockWaveFrom w (i + 1) n

/-- The character of a sample: `CONT` when it equals the one before it, else the marker of its value (R167, R168). -/
def waveChar (w : WaveStyle) (mark : Nat → Char) (prev : Option Nat) (v : Nat) : Char :=
  if prev = some v then w.cont else mark v

/-- The wave of a log, given the value before it. -/
def waveFrom (w : WaveStyle) (mark : Nat → Char) : Option Nat → List Nat → Text
  | _, [] => []
  | prev, v :: vs => waveChar w mark prev v :: waveFrom w mark (some v) vs

/-- The level marker: `LVL_HI` for 1, `LVL_LO` for 0 (R167). -/
def levelMark (w : WaveStyle) (v : Nat) : Char := if v = 1 then w.lvlHi else w.lvlLo

/-- The wave of a `level` entry (R167). -/
def levelWave (w : WaveStyle) (vs : List Nat) : Text := waveFrom w (levelMark w) none vs

/-- The wave of a `value` entry (R168). -/
def valueWave (w : WaveStyle) (vs : List Nat) : Text := waveFrom w (fun _ => w.val) none vs

/-- The values of a log that differ from the one before them, in order, given the value before the first. -/
def changesFrom : Option Nat → List Nat → List Nat
  | _, [] => []
  | prev, v :: vs => if prev = some v then changesFrom (some v) vs else v :: changesFrom (some v) vs

/-- The `data` of a `value` entry: one literal for each `VAL` (R168). -/
def valueData (w : WaveStyle) (fewest : Nat) (vs : List Nat) : List Text :=
  (changesFrom none vs).map (hexLiteral w fewest)

/-- The wave of an entry, by its kind (R165). -/
def waveOf (w : WaveStyle) (count : Nat) (l : Log) : Text :=
  match trackKind l.name with
  | .clock => clockWaveFrom w 0 count
  | .level => levelWave w l.numbers
  | .value => valueWave w l.numbers

/-! ### Serialisation -/

/-- The opening brace of a JSON object. -/
def openBrace : Char := Char.ofNat 0x7b
/-- The closing brace of a JSON object. -/
def closeBrace : Char := Char.ofNat 0x7d

/-- A JSON string; no escapes are ever needed (30_encoding.md R82). -/
def quoted (t : Text) : Text := '"' :: t ++ ['"']

/-- Items with the separator between them. -/
def separated (sep : Text) : List Text → Text
  | [] => []
  | [t] => t
  | t :: u :: ts => t ++ sep ++ separated sep (u :: ts)

/-- A JSON list. -/
def jsonList (w : WaveStyle) (ts : List Text) : Text := '[' :: separated w.itemSep.toList ts ++ [']']

/-- One key and its value. -/
def jsonPair (w : WaveStyle) (key : String) (value : Text) : Text := quoted key.toList ++ w.keySep.toList ++ value

/-- A JSON object. -/
def jsonObject (w : WaveStyle) (pairs : List Text) : Text :=
  openBrace :: separated w.itemSep.toList pairs ++ [closeBrace]

/-- The `data` key of an entry, present exactly for kind `value` (30_encoding.md R79). -/
def dataPair (w : WaveStyle) (l : Log) : List Text :=
  match trackKind l.name with
  | .clock => []
  | .level => []
  | .value => [jsonPair w "data" (jsonList w ((valueData w (fewestDigits w l.name) l.numbers).map quoted))]

/-- One entry: `name`, `wave` and, for kind `value`, `data` (30_encoding.md R79). -/
def entry (w : WaveStyle) (count : Nat) (l : Log) : Text :=
  jsonObject w
    ([jsonPair w "name" (quoted (trackName w l.name)), jsonPair w "wave" (quoted (waveOf w count l))] ++ dataPair w l)

/-- The artefact: one object with the key `signal`, entries in the order of the logs (30_encoding.md R79, R82). -/
def artefact (w : WaveStyle) (r : Recorder) : Text :=
  jsonObject w [jsonPair w "signal" (jsonList w (r.logs.map (entry w r.count)))] ++ w.lineEnd.toList

/-! ### render -/

/-- The first unsupported value of a log. -/
def unsupportedIn : List Sampled → Option String
  | [] => none
  | .unsupported what :: _ => some what
  | .bit _ :: rest => unsupportedIn rest
  | .word _ :: rest => unsupportedIn rest

/-- The first log that holds an unsupported value, and that value, in the order of R161 and then of the samples
(R171). -/
def firstUnsupported : List Log → Option (Track × String)
  | [] => none
  | l :: rest =>
    match unsupportedIn l.values with
    | some what => some (l.name, what)
    | none => firstUnsupported rest

/-- `render()`: the whole artefact, or TraceFormatError with the offending name and value (R165, R171). -/
def Recorder.render (w : WaveStyle) (r : Recorder) : Except (Track × String) Text :=
  match firstUnsupported r.logs with
  | some bad => .error bad
  | none => .ok (artefact w r)

/-- What a call of `render` returns in a session (R165, R171). -/
def State.renderReply (s : State) : RenderReply :=
  match s.recorder.render s.params.wave with
  | .error (name, what) => .traceFormatError name what
  | .ok t => .text t

/-- Whether the host calls `render`: it then gets the artefact or TraceFormatError, nothing of the block or the recorder is
written, and the session goes on (R165; 60_exceptions.md R204, R205). Log entry 19. -/
def hostRender (called : Bool) (s : State) : State :=
  s.setLastRender (if called then some s.renderReply else s.lastRender)

end Sys2Proof.Machine
end

