-- ==== Sys2Proof/Machine/Construction.lean ====
section
/-! DEFINITION. Construction (44_construction.md) and the reset cycle (70_reset_and_hazards.md R221). -/
namespace Sys2Proof.Machine

/-- The zero bundle (R193). -/
def zeroBundle (nr : Nat) : Bundle :=
  { address := 0, writeEnable := false, select := noSelect nr, enable := false, writeData := 0,
    readData := 0, ready := false, error := false, strobe := 0 }

/-- A new controller (R196). -/
def newController : Controller := { phase := .idle, actCmd := .idle, actId := 0 }

/-- A new responder with the initial words `store_init[k]` (R196). -/
def newResponder (p : Params) (k : Nat) : Responder :=
  { waitCnt := .num 0, xferN := 0, store := Memory.ofList ((p.storeInit[k]?).getD []) }

/-- A new recorder (R196). -/
def newRecorder (nr : Nat) : Recorder := { count := 0, logs := (trackNames nr).map fun t => ⟨t, []⟩ }

/-- `make_transfer` (R190): ConfigurationError, or the zero bundle and a fresh request whose command is Idle. -/
def makeTransfer (dwMax address data aw dw nr responderId : Nat) : Except ConfigError (Bundle × Request) :=
  match firstError (makeTransferTests dwMax address data aw dw nr responderId) with
  | some e => .error e
  | none => .ok (zeroBundle nr, { command := .idle, address := address, data := data, responderId := responderId })

/-- Construction of a whole session (R190, R193, R196; 70_reset_and_hazards.md R222). -/
def construct (p : Params) (address data responderId : Nat) (inputs : List CycleInput) : Except ConfigError State :=
  match makeTransfer p.dwMax address data p.aw p.dw p.nr responderId with
  | .error e => .error e
  | .ok (b, q) =>
    .ok
      { params := p, bundle := b, request := q, ctl := newController
        responders := (List.range p.nr).map (newResponder p)
        recorder := newRecorder p.nr, inputs := inputs, lastRender := none }

/-- A reset cycle's writes: the zero bundle, a new controller, every wait count 0; the request, the stores, the transfer
counters and the recorder are not touched (70_reset_and_hazards.md R221). -/
def resetCycle (s : State) : State :=
  { s with
    bundle := zeroBundle s.params.nr
    ctl := newController
    responders := s.responders.map fun r => { r with waitCnt := .num 0 } }

end Sys2Proof.Machine
end

