-- ==== Sys2Proof/Machine/HostSide.lean ====
section
/-! DEFINITION. Step 1 of a cycle: what the host does (00_scope.md R11, 70_reset_and_hazards.md R222 to R231). -/
namespace Sys2Proof.Machine

/-- The host presents a packed word: the decoder refuses it before the request exists, or it becomes the request
(30_encoding.md R71, R73). -/
def presentWord (w : Nat) (s : State) : Out :=
  match decode s.params w with
  | .ok i => .next (s.setRequest (requestOf i))
  | .error (.config e) => raiseConfiguration s e
  | .error (.noSuchBits v) => .refused (.noSuchWord v)

/-- The host writes a whole request, which must be well formed (44_construction.md R192). -/
def writeRequest (q : Request) (s : State) : Out :=
  checked (raiseConfiguration s) (requestTests s.params q.command q.responderId q.address q.data) (.next (s.setRequest q))

/-- The host writes the named fields of the request, the others keep their value (30_encoding.md R77); a command number
that names no command is a ConfigurationError (44_construction.md R192 item 7). -/
def writeFields (command responderId address data : Option Nat) (s : State) : Out :=
  match (command.map commandOf).getD (.ok s.request.command) with
  | .error e => raiseConfiguration s e
  | .ok c =>
    writeRequest
      { command := c, address := address.getD s.request.address, data := data.getD s.request.data,
        responderId := responderId.getD s.request.responderId }
      s

/-- A second `make_transfer` of the session: the session keeps its bundle and uses only the new request
(44_construction.md R190); its widths never change (R194). -/
def newTransfer (address data aw dw nr responderId : Nat) (s : State) : Out :=
  match makeTransfer s.params.dwMax address data aw dw nr responderId with
  | .error e => raiseConfiguration s e
  | .ok (_, q) =>
    if aw = s.params.aw ∧ dw = s.params.dw ∧ nr = s.params.nr then .next (s.setRequest q)
    else .refused .otherSession

/-- A write of the bundle by the host: `strobe` is the one field it may write (70_reset_and_hazards.md R230). -/
def hostWritesBundle (f : BundleField) (v : Nat) (s : State) : Out :=
  if f = .strobe then
    if fitsWidth s.params.strbW v then .next (s.setBundle { s.bundle with strobe := v }) else .refused (.strobeTooWide v)
  else .refused (.hostDroveBundle f)

/-- One act of the host. -/
def hostAct (s : State) : HostAct → Out
  | .present w => presentWord w s
  | .setRequest c r a d => writeFields c r a d s
  | .makeTransfer a d aw dw nr r => newTransfer a d aw dw nr r s
  | .writeBundle f v => hostWritesBundle f v s
  | .stepConcurrently => .refused .concurrentStepping

/-- The host's acts of a cycle, in order. -/
def hostActs : List HostAct → State → Out
  | [], s => .next s
  | a :: rest, s => andThen (hostAct s a) (hostActs rest)

/-- What the host does in the next cycle; where it has nothing planned, it only samples (log entry 4). -/
def State.nextInput (s : State) : CycleInput := s.inputs.headD {}

/-- The state with the next cycle's plan taken off the host's list. -/
def State.takeInput (s : State) : State := s.setInputs s.inputs.tail

/-- The session between two transfers, with the select lines and `enable` low, as an `ACCESS → IDLE` step leaves it
(40_bus_controller_fsm.md R106). -/
def State.betweenTransfers (s : State) : State :=
  { s with
    bundle := { s.bundle with enable := false, select := noSelect s.params.nr }
    ctl := { s.ctl with phase := .idle, actCmd := .idle } }

/-- The session between two transfers in whose next cycle the host presents the packed word `w` (log entry 4). -/
def State.presenting (s : State) (w : Nat) : State :=
  s.betweenTransfers.setInputs ({ acts := [.present w] } :: s.inputs)

end Sys2Proof.Machine
end

