-- ==== Sys2Proof/Machine/Responder.lean ====
section
/-! DEFINITION. The wait-state responder (42_wait_state_responder.md) and step 3 of a cycle. -/
namespace Sys2Proof.Machine

/-- `wait_cnt - 1`, with `NEVER - 1 = NEVER` (R143, 40_bus_controller_fsm.md R116). -/
def waitPred : Wait → Wait
  | .num n => .num (n - 1)
  | .never => .never

/-- A responder's next state and its outputs. -/
abbrev Reply := Responder × Drive

/-- SETUP cycle: load the wait count from the draw and count the transfer (R142). -/
def respondSetup (p : Params) (k : Nat) (r : Responder) : Reply :=
  ({ r with waitCnt := p.draw k r.xferN, xferN := r.xferN + 1 }, Drive.quiet)

/-- ACCESS wait cycle (R143). -/
def respondWait (r : Responder) : Reply := ({ r with waitCnt := waitPred r.waitCnt }, Drive.quiet)

/-- ACCESS completing cycle of a WRITE: all `DW` bits, `strobe` not consulted (R144, R148). -/
def respondWrite (q : Port) (r : Responder) : Reply :=
  ({ r with store := Memory.write r.store q.address q.writeData }, { ready := true, readData := 0, error := false })

/-- ACCESS completing cycle of a READ (R145). -/
def respondRead (q : Port) (r : Responder) : Reply :=
  (r, { ready := true, readData := Memory.read r.store q.address, error := false })

/-- Not addressed (R146). -/
def respondIgnore (r : Responder) : Reply := (r, Drive.quiet)

/-- One responder in step 3: exactly one of R142 to R146, told apart by the wires (R141, R151). -/
def respond (p : Params) (k : Nat) (q : Port) (r : Responder) : Reply :=
  if q.sel = false then respondIgnore r
  else if q.enable = false then respondSetup p k r
  else if r.waitCnt ≠ .num 0 then respondWait r
  else if q.writeEnable then respondWrite q r
  else respondRead q r

/-- Every responder from number `k` on answers the same bundle (R151). -/
def respondFrom (p : Params) (b : Bundle) (k : Nat) : List Responder → List Reply
  | [] => []
  | r :: rs => respond p k (b.port k) r :: respondFrom p b (k + 1) rs

/-- Step 3: the responders take their turn and the return path writes its three fields
(00_scope.md R11, 41_signal_bundle_mux.md R136). -/
def respondAll (s : State) : State :=
  let replies := respondFrom s.params s.bundle 0 s.responders
  { s with
    bundle := s.bundle.drive (returnPath s.bundle.select (replies.map Prod.snd))
    responders := replies.map Prod.fst }

/-- The controller-driven lines agree with the phase after `advance` (10_state.md R22). -/
def bundleOk (nr : Nat) (c : Controller) (b : Bundle) : Bool :=
  match c.phase with
  | .idle => decide (b.select = noSelect nr) && !b.enable
  | .setup => decide (c.actId < nr) && decide (b.select = oneHot nr c.actId) && !b.enable
  | .access => decide (c.actId < nr) && decide (b.select = oneHot nr c.actId) && b.enable

/-- The name of the refusal of a bundle that breaks 10_state.md R22 (93_implementation_defined.md U3). -/
def bundleRefusal (c : Controller) (b : Bundle) : Refusal :=
  if 2 ≤ b.select.count true then .multipleSelect
  else if b.enable && decide (b.select.count true = 1) && decide (c.phase ≠ .access) then .accessWithoutSetup
  else .bundleDisturbed

/-- Step 3, refused where only a host that wrote the bundle can have led (41_signal_bundle_mux.md R135,
42_wait_state_responder.md R152, 70_reset_and_hazards.md R230). -/
def respondersTurn (s : State) : Out :=
  if bundleOk s.params.nr s.ctl s.bundle then .next (respondAll s) else .refused (bundleRefusal s.ctl s.bundle)

end Sys2Proof.Machine
end

