-- ==== Sys2Proof/Machine/Cycle.lean ====
section
/-! DEFINITION. One clock cycle (00_scope.md R11, 70_reset_and_hazards.md R220). -/
namespace Sys2Proof.Machine

/-- Step 4: the host samples, and renders if it wants to (43_waveform_sampler.md R163, R165). -/
def finishCycle (c : CycleInput) (s : State) : State :=
  hostRender c.render (sampleTimes c.samples s)

/-- Steps 2 and 3: `advance` with the request present, any sample that comes too early, then the responders. -/
def busCycle (c : CycleInput) (s : State) : Out :=
  andThen (exec s.request.toInstr s) fun t => respondersTurn (sampleTimes c.earlySamples t)

/-- A cycle after step 1: in a reset cycle `rst` replaces steps 2 and 3 (70_reset_and_hazards.md R220). -/
def blockCycle (c : CycleInput) (s : State) : Out :=
  andThen (if c.rst then .next (sampleTimes c.earlySamples (resetCycle s)) else busCycle c s) fun t =>
    .next (finishCycle c t)

/-- One clock cycle with the host's part given: the four steps in order (00_scope.md R11). -/
def cycle (c : CycleInput) (s : State) : Out := andThen (hostActs c.acts s) (blockCycle c)

end Sys2Proof.Machine
end

