-- ==== Sys2Proof/Machine/Step.lean ====
section
/-! DEFINITION. One step of the machine: one clock cycle (00_scope.md R11). -/
namespace Sys2Proof.Machine

/-- One clock cycle, the host's part taken from its plan. -/
def step (s : State) : Host.Outcome State Fault Refusal := cycle s.nextInput s.takeInput

/-- The session whose next step runs the request packed in the low `nbits` bits of `w` (30_encoding.md R71): the block
stands between two transfers, where `advance` reads the request (40_bus_controller_fsm.md R107), and the host presents
the word. Log entry 4. -/
def State.withFetchWord (s : State) (nbits w : Nat) : State := s.presenting (w % 2 ^ nbits)

end Sys2Proof.Machine
end

