-- ==== Sys2Proof/Machine/AnyResponder.lean ====
section
/-! DEFINITION. The block against any responders at all: what each of them drives in a cycle is a free input
(42_wait_state_responder.md R150). `step` runs the spec's own `wait_state_responder`; this is the same cycle with step 3
left open, for claims that hold whatever the inside of a responder is. -/
namespace Sys2Proof.Machine

/-- Step 3 where responder `k` drives the `k`-th of `ds`. The return path is the same (41_signal_bundle_mux.md R133);
what the responders keep inside is theirs. -/
def turnAgainst (ds : List Drive) (s : State) : Out :=
  if bundleOk s.params.nr s.ctl s.bundle then .next (s.setBundle (s.bundle.drive (returnPath s.bundle.select ds)))
  else .refused (bundleRefusal s.ctl s.bundle)

/-- Steps 2 and 3 of one cycle against responders that drive `ds`. -/
def cycleAgainst (ds : List Drive) (s : State) : Out := andThen (exec s.request.toInstr s) (turnAgainst ds)

/-- One cycle for each list of outputs. -/
def cyclesAgainst : List (List Drive) → State → Out
  | [], s => .next s
  | ds :: rest, s => andThen (cycleAgainst ds s) (cyclesAgainst rest)

end Sys2Proof.Machine
end

