-- ==== Sys2Proof/Safety.lean ====
section
/-! DEFINITION. The terms in which claims speak of a session: its invariant, a host that leaves a transfer alone, runs. -/
namespace Sys2Proof.Machine

/-- `n` clock cycles, stopping at the first fault or refusal. -/
def cycles : Nat → State → Out
  | 0, s => .next s
  | n + 1, s => andThen (step s) (cycles n)

/-- A sampled value of the type its name asks for (43_waveform_sampler.md R161, R171). -/
def Sampled.hasKind : Sampled → Kind → Bool
  | .bit _, .clock => true
  | .bit _, .level => true
  | .word _, .value => true
  | .bit _, .value => false
  | .word _, .clock => false
  | .word _, .level => false
  | .unsupported _, .clock => false
  | .unsupported _, .level => false
  | .unsupported _, .value => false

/-- Every field of the bundle holds a value of its width (10_state.md R21, 00_scope.md R9). -/
structure Bundle.Fits (p : Params) (b : Bundle) : Prop where
  address : b.address < 2 ^ p.aw
  select : b.select.length = p.nr
  writeData : b.writeData < 2 ^ p.dw
  readData : b.readData < 2 ^ p.dw
  strobe : b.strobe < 2 ^ p.strbW

/-- The recorder holds one typed log of `count` values for each tracked name, in their order
(10_state.md R29, 43_waveform_sampler.md R161). -/
structure Recorder.Typed (nr : Nat) (r : Recorder) : Prop where
  names : r.logs.map Log.name = trackNames nr
  lengths : ∀ l ∈ r.logs, l.values.length = r.count
  kinds : ∀ l ∈ r.logs, ∀ v ∈ l.values, v.hasKind (trackKind l.name) = true

/-- The invariant of a session at the end of every cycle. -/
structure State.Inv (s : State) : Prop where
  /-- The parameters are legal (00_scope.md R7). -/
  params : s.params.legal = true
  /-- The bundle's values fit (10_state.md R21). -/
  bundle : s.bundle.Fits s.params
  /-- The request is well formed (44_construction.md R192). -/
  request : s.request.toInstr.wf s.params = true
  /-- The lines agree with the phase (10_state.md R22). -/
  lines : bundleOk s.params.nr s.ctl s.bundle = true
  /-- `act_id` names a responder (10_state.md R25). -/
  actId : s.ctl.actId < s.params.nr
  /-- `act_cmd` is Idle exactly between transfers (10_state.md R25). -/
  actCmd : s.ctl.actCmd = .idle ↔ s.ctl.phase = .idle
  /-- During a transfer `write_enable` tells its command (40_bus_controller_fsm.md R102, R103). -/
  direction : s.ctl.phase ≠ .idle → (s.bundle.writeEnable = true ↔ s.ctl.actCmd = .write)
  /-- One responder for each select line (10_state.md R28). -/
  responders : s.responders.length = s.params.nr
  /-- Every store is in canonical form and holds words of the space (20_memory.md R51). -/
  stores : ∀ r ∈ s.responders, Memory.wf r.store = true ∧ Memory.within s.params r.store = true
  /-- A responder outside a transfer has no wait cycles to insert (42_wait_state_responder.md R152). -/
  waits : ∀ k r, s.responders[k]? = some r → (s.ctl.phase = .idle ∨ k ≠ s.ctl.actId) → r.waitCnt = .num 0
  /-- `ready` is up in completing cycles only (42_wait_state_responder.md R144, R145; 41_signal_bundle_mux.md R134). -/
  ready : s.bundle.ready = true →
    s.ctl.phase = .access ∧ ∀ r, s.responders[s.ctl.actId]? = some r → r.waitCnt = .num 0
  /-- `error` is never raised (42_wait_state_responder.md R147). -/
  error : s.bundle.error = false
  /-- The recorder's logs are typed (43_waveform_sampler.md R171). -/
  recorder : s.recorder.Typed s.params.nr

/-- A cycle in which the host leaves the transfer in progress alone: no reset, and it writes nothing or returns the
command to Idle (30_encoding.md R78). It may sample and render as it likes. -/
def CycleInput.leavesTransfer (c : CycleInput) : Prop :=
  c.rst = false ∧ (c.acts = [] ∨ c.acts = [.setRequest (some 0) none none none])

/-- The host leaves the transfer in progress alone in every cycle it has planned. -/
def State.hostWaits (s : State) : Prop := ∀ c ∈ s.inputs, c.leavesTransfer

end Sys2Proof.Machine
end

