-- ==== Sys2Proof/Certificates/Slice0/Obligations.lean ====
section
/-! DEFINITION. The statements for the provers. Each is about every state or operand it names; each docstring names the
rules of spec/ it formalises. -/

open Sys2Proof Sys2Proof.Machine

/-! ### Encoding -/

/-- Decoding the packed word of a well-formed request gives it back, with every field at every value
(30_encoding.md R71, R72). -/
def Obligations.DecodeOfEncodeIsTheRequest : Prop :=
  ∀ (p : Params) (i : Instr), i.wf p = true → decode p (encode p i) = .ok i

/-- Each word has one meaning: a word the decoder accepts is the word of the request it stands for
(30_encoding.md R71, R72). -/
def Obligations.EncodeOfDecodeIsTheWord : Prop :=
  ∀ (p : Params) (w : Nat) (i : Instr), decode p w = .ok i → encode p i = w

/-- 30_encoding.md R71: `word = {data, address, responder_id, command}`, `REQ_W` bits wide, and its worked example. -/
def Obligations.PackedRequestLayout : Prop :=
  (∀ (p : Params) (i : Instr), i.wf p = true →
    slice (encode p i) 0 2 = i.command.code ∧
    slice (encode p i) 2 p.idW = i.responderId ∧
    slice (encode p i) (p.idW + 2) p.aw = i.address ∧
    slice (encode p i) (p.aw + p.idW + 2) p.dw = i.data ∧
    encode p i < 2 ^ (2 + p.idW + p.aw + p.dw)) ∧
  encode { aw := 16, dw := 32, nr := 1 } (.write 0 13 45) = 0x168006a

/-- 30_encoding.md R72: the command field of a packed word selects the operation, by the mask and match of the table. -/
def Obligations.CommandFieldSelectsTheOperation : Prop :=
  ∀ (p : Params) (w : Nat) (i : Instr), decode p w = .ok i →
    (w &&& 0x3 = 0x0 ↔ i.command = .idle) ∧
    (w &&& 0x3 = 0x1 ↔ i.command = .read) ∧
    (w &&& 0x3 = 0x2 ↔ i.command = .write)

/-- 30_encoding.md R73: command 3 and a READ or WRITE of a responder that does not exist are ConfigurationErrors where
the word is presented; IDLE with any operand and READ with any data are requests. -/
def Obligations.ReservedAndIllegalWordsAreRefused : Prop :=
  ∀ (s : State) (w : Nat), w < 2 ^ s.params.reqW →
    (w &&& 0x3 = 0x3 → hostAct s (.present w) = .fault (.configurationError (.command 3) s)) ∧
    ((w &&& 0x3 = 0x1 ∨ w &&& 0x3 = 0x2) → s.params.nr ≤ slice w 2 s.params.idW →
      hostAct s (.present w) = .fault (.configurationError (.responderId (slice w 2 s.params.idW)) s)) ∧
    (w &&& 0x3 = 0x0 →
      hostAct s (.present w) = .next { s with
        request :=
          { command := .idle, responderId := slice w 2 s.params.idW, address := slice w (s.params.idW + 2) s.params.aw,
            data := slice w (s.params.aw + s.params.idW + 2) s.params.dw } }) ∧
    (w &&& 0x3 = 0x1 → slice w 2 s.params.idW < s.params.nr →
      hostAct s (.present w) = .next { s with
        request :=
          { command := .read, responderId := slice w 2 s.params.idW, address := slice w (s.params.idW + 2) s.params.aw,
            data := slice w (s.params.aw + s.params.idW + 2) s.params.dw } })

/-- Words written out from the encoding of 30_encoding.md R71, R72 (95_test_vectors.md V-E1 to V-E5 and V-E8) decode to
the requests they stand for. -/
def Obligations.WordsOfTheSpecDecode : Prop :=
  decode { aw := 16, dw := 32, nr := 1 } 0x168006a = .ok (.write 0 13 45) ∧
  decode { aw := 16, dw := 32, nr := 1 } 0x69 = .ok (.read 0 13 0) ∧
  decode { aw := 16, dw := 32, nr := 2 } 0x168006e = .ok (.write 1 13 45) ∧
  decode { aw := 16, dw := 32, nr := 1 } 0x657f00102 = .ok (.write 0 0x20 0xcafe) ∧
  decode { aw := 16, dw := 32, nr := 1 } 0x0 = .ok (.idle 0 0 0) ∧
  decode { aw := 16, dw := 32, nr := 1 } 0x168006c = .ok (.idle 1 13 45)

/-- 00_scope.md R6: the derived widths. `ceil(log2(n))` is the least `k` with `2^k >= n`, `ID_W` is at least 1, and
`STRB_W` is the least `m` with `8 * m >= DW`. -/
def Obligations.DerivedWidthsAreTheLeastThatFit : Prop :=
  (∀ n, 1 ≤ n → n ≤ 2 ^ clog2 n ∧ ∀ k, n ≤ 2 ^ k → clog2 n ≤ k) ∧
  ∀ p : Params, p.idW = max (clog2 p.nr) 1 ∧ p.dw ≤ 8 * p.strbW ∧ (∀ m, p.dw ≤ 8 * m → p.strbW ≤ m) ∧
    p.strbW = (p.dw + 7) / 8

/-! ### Construction and reset -/

/-- 44_construction.md R190: `make_transfer` tests its arguments in the order of R192 and otherwise returns the zero
bundle of R193 and a fresh Idle request of its operands; in a running session only the new request is used. -/
def Obligations.MakeTransferTestsThenBuilds : Prop :=
  (∀ dwMax address data aw dw nr responderId : Nat,
    makeTransfer dwMax address data aw dw nr responderId =
      if dw < 1 ∨ dwMax < dw then .error (.dataWidth dw)
      else if aw < 1 then .error (.addressWidth aw)
      else if nr < 1 then .error (.responderCount nr)
      else if nr ≤ responderId then .error (.responderId responderId)
      else if 2 ^ aw ≤ address then .error (.address address)
      else if 2 ^ dw ≤ data then .error (.data data)
      else .ok
        ({ address := 0, writeEnable := false, select := List.replicate nr false, enable := false, writeData := 0,
           readData := 0, ready := false, error := false, strobe := 0 },
          { command := .idle, address := address, data := data, responderId := responderId })) ∧
  ∀ (s : State) (a d r : Nat) (b : Bundle) (q : Request),
    makeTransfer s.params.dwMax a d s.params.aw s.params.dw s.params.nr r = .ok (b, q) →
    hostAct s (.makeTransfer a d s.params.aw s.params.dw s.params.nr r) = .next { s with request := q }

/-- The tests of 44_construction.md R192 when the host writes a Read or Write request, or a number that names no
command; the order of the tests among one another is R192's. -/
def Obligations.HostRequestWritesAreTested : Prop :=
  ∀ (s : State) (k r a d : Nat),
    ((k = 1 ∨ k = 2) →
      hostAct s (.setRequest (some k) (some r) (some a) (some d)) =
        if s.params.nr ≤ r then .fault (.configurationError (.responderId r) s)
        else if 2 ^ s.params.aw ≤ a then .fault (.configurationError (.address a) s)
        else if 2 ^ s.params.dw ≤ d then .fault (.configurationError (.data d) s)
        else .next { s with
          request := { command := if k = 1 then .read else .write, address := a, data := d, responderId := r } }) ∧
    (3 ≤ k → hostAct s (.setRequest (some k) (some r) (some a) (some d)) = .fault (.configurationError (.command k) s))

/-- 44_construction.md R193, R196: what a new session holds. -/
def Obligations.NewPartsHoldTheirInitialValues : Prop :=
  ∀ (p : Params) (address data responderId : Nat) (inputs : List CycleInput) (s : State),
    construct p address data responderId inputs = .ok s →
      s.ctl = { phase := .idle, actCmd := .idle, actId := 0 } ∧
      s.bundle =
        { address := 0, writeEnable := false, select := List.replicate p.nr false, enable := false, writeData := 0,
          readData := 0, ready := false, error := false, strobe := 0 } ∧
      s.responders.length = p.nr ∧
      (∀ (k : Nat) (r : Responder), s.responders[k]? = some r → r.waitCnt = .num 0 ∧ r.xferN = 0) ∧
      (∀ k a, k < p.nr → p.storeInit[k]? = none → s.memRead k a = 0) ∧
      (∀ k m a, k < p.nr → p.storeInit[k]? = some m → Memory.wf m = true → s.memRead k a = Memory.read m a) ∧
      s.recorder.count = 0 ∧ ∀ l ∈ s.recorder.logs, l.values = []

/-- A session constructed with initial words of its own space meets the invariant (44_construction.md R190 to R196). -/
def Obligations.ConstructedSessionMeetsTheInvariant : Prop :=
  ∀ (p : Params) (address data responderId : Nat) (inputs : List CycleInput) (s : State),
    (∀ m ∈ p.storeInit, Memory.within p m = true) →
    construct p address data responderId inputs = .ok s → s.Inv

/-- The reset state meets the invariant. The parameters it stands on and the zeros of its request are the model's choice
(log entries 1 and 2). -/
def Obligations.ResetMeetsTheInvariant : Prop := State.reset.Inv

/-- The reset state is what construction builds (10_state.md R32). The parameters and the zeros of the request are the
model's choice (log entries 1 and 2). -/
def Obligations.ResetIsAConstructedSession : Prop :=
  construct Config.resetParams 0 0 0 [] = .ok State.reset

/-- 70_reset_and_hazards.md R221: a reset cycle sets the zero bundle, the controller and the wait counts, touches neither
request, stores, transfer counters nor earlier samples, and a sample of it is of the zero bundle. -/
def Obligations.ResetCycleRestoresTheBlock : Prop :=
  ∀ s s1 : State, s.nextInput.rst = true →
    hostActs s.nextInput.acts s.takeInput = .next s1 →
    ∃ t, step s = .next t ∧
      t.bundle =
        { address := 0, writeEnable := false, select := List.replicate s.params.nr false, enable := false,
          writeData := 0, readData := 0, ready := false, error := false, strobe := 0 } ∧
      t.ctl = { phase := .idle, actCmd := .idle, actId := 0 } ∧
      t.responders.length = s.responders.length ∧
      (∀ (k : Nat) (r : Responder), s.responders[k]? = some r → t.responders[k]? = some { r with waitCnt := .num 0 }) ∧
      t.request = s1.request ∧ t.params = s.params ∧
      (∀ k a, t.memRead k a = s.memRead k a) ∧
      t.recorder = s.recorder.sampleTimes t.bundle (s.nextInput.earlySamples + s.nextInput.samples)

/-! ### The controller -/

/-- 40_bus_controller_fsm.md R101: IDLE completes in phase `IDLE`, whatever its operands, and writes nothing at all. -/
def Obligations.IdleCommandWritesNothing : Prop :=
  ∀ (s : State) (r a d : Nat), s.ctl.phase = .idle → exec (.idle r a d) s = .next s

/-- 40_bus_controller_fsm.md R102: READ, accepted in phase `IDLE`; everything not named keeps its value. -/
def Obligations.ReadCommandEntersSetup : Prop :=
  ∀ (s : State) (i a d : Nat), s.ctl.phase = .idle → i < s.params.nr → a < 2 ^ s.params.aw → d < 2 ^ s.params.dw →
    exec (.read i a d) s =
      .next { s with
        bundle := { s.bundle with
          address := a, writeEnable := false, select := (List.range s.params.nr).map fun j => decide (j = i) }
        ctl := { phase := .setup, actCmd := .read, actId := i } }

/-- 40_bus_controller_fsm.md R103: WRITE, accepted in phase `IDLE`; everything not named keeps its value. -/
def Obligations.WriteCommandEntersSetup : Prop :=
  ∀ (s : State) (i a d : Nat), s.ctl.phase = .idle → i < s.params.nr → a < 2 ^ s.params.aw → d < 2 ^ s.params.dw →
    exec (.write i a d) s =
      .next { s with
        bundle := { s.bundle with
          address := a, writeData := d, writeEnable := true,
          select := (List.range s.params.nr).map fun j => decide (j = i) }
        ctl := { phase := .setup, actCmd := .write, actId := i } }

/-- An `advance` in phase `IDLE` that meets a READ or WRITE with an ill-formed operand has no meaning and is refused by the
name of the first offending field. The spec tests the operands where the request is made (44_construction.md R192) and
defines `advance` on well-formed requests only; that the model refuses here, and the name, are its choice (log entry 18). -/
def Obligations.IllFormedOperandsAreRefused : Prop :=
  ∀ (s : State) (i : Instr), s.ctl.phase = .idle → i.command ≠ .idle →
    (s.params.nr ≤ i.responderId → exec i s = .refused (.requestNotWellFormed (.responderId i.responderId))) ∧
    (i.responderId < s.params.nr → 2 ^ s.params.aw ≤ i.address →
      exec i s = .refused (.requestNotWellFormed (.address i.address))) ∧
    (i.responderId < s.params.nr → i.address < 2 ^ s.params.aw → 2 ^ s.params.dw ≤ i.data →
      exec i s = .refused (.requestNotWellFormed (.data i.data)))

/-- `advance` answers a next state for every state and every well-formed request, and raises an error for none at all
(40_bus_controller_fsm.md R100, R114; 60_exceptions.md R200, R201). -/
def Obligations.AdvanceIsTotalAndRaisesNothing : Prop :=
  ∀ (s : State) (i : Instr), (i.wf s.params = true → ∃ t, exec i s = .next t) ∧ ∀ f, exec i s ≠ .fault f

/-- 40_bus_controller_fsm.md R104: `SETUP → ACCESS` is unconditional, whichever command is present. -/
def Obligations.SetupLastsOneCycle : Prop :=
  ∀ (s : State) (i : Instr), s.ctl.phase = .setup →
    exec i s = .next { s with bundle := { s.bundle with enable := true }, ctl := { s.ctl with phase := .access } }

/-- 40_bus_controller_fsm.md R105: while `ready` is 0, `ACCESS` holds everything. -/
def Obligations.AccessHoldsWhileNotReady : Prop :=
  ∀ (s : State) (i : Instr), s.ctl.phase = .access → s.bundle.ready = false → exec i s = .next s

/-- 40_bus_controller_fsm.md R106: `ACCESS → IDLE` drops `enable` and the line of the transfer, and nothing else. -/
def Obligations.AccessEndsOnReady : Prop :=
  ∀ (s : State) (i : Instr), s.ctl.phase = .access → s.bundle.ready = true →
    exec i s =
      .next { s with
        bundle := { s.bundle with enable := false, select := s.bundle.select.set s.ctl.actId false }
        ctl := { s.ctl with phase := .idle, actCmd := .idle } }

/-- 10_state.md R26: the phase after `advance` is the one of the transition table. -/
def Obligations.PhaseFollowsTheTransitionTable : Prop :=
  ∀ (s t : State) (i : Instr), exec i s = .next t →
    t.ctl.phase =
      match s.ctl.phase with
      | .idle => if i.command = .idle then .idle else .setup
      | .setup => .access
      | .access => if s.bundle.ready then .idle else .access

/-- 40_bus_controller_fsm.md R108 and the controller's frame: no `advance` writes `read_data`, `ready`, `error` or
`strobe`, nor anything outside the bundle and the controller's registers; every word of every store reads as before. -/
def Obligations.AdvanceLeavesTheRestUnchanged : Prop :=
  ∀ (s t : State) (i : Instr), exec i s = .next t →
    t.bundle.readData = s.bundle.readData ∧ t.bundle.ready = s.bundle.ready ∧ t.bundle.error = s.bundle.error ∧
    t.bundle.strobe = s.bundle.strobe ∧
    t.params = s.params ∧ t.request = s.request ∧ t.responders = s.responders ∧ t.recorder = s.recorder ∧
    t.inputs = s.inputs ∧ t.lastRender = s.lastRender ∧ ∀ k a, t.memRead k a = s.memRead k a

/-- 40_bus_controller_fsm.md R107: in phases `SETUP` and `ACCESS` the request is not read, so another request changes
nothing of the cycle but itself. -/
def Obligations.RequestIsNotReadDuringATransfer : Prop :=
  (∀ (s : State) (i j : Instr), s.ctl.phase ≠ .idle → exec i s = exec j s) ∧
  ∀ (s : State) (q : Request), s.ctl.phase ≠ .idle → s.nextInput.acts = [] →
    step { s with request := q } = andThen (step s) fun t => .next { t with request := q }

/-- The controller reads nothing of what a responder drives but `ready`: against other values of `read_data`, `error`
and `strobe` it makes the same writes (42_wait_state_responder.md R150, 40_bus_controller_fsm.md R106). -/
def Obligations.AdvanceReadsOnlyReadyOfTheResponder : Prop :=
  ∀ (s : State) (i : Instr) (d z : Nat) (e : Bool),
    exec i { s with bundle := { s.bundle with readData := d, error := e, strobe := z } } =
      andThen (exec i s) fun t => .next { t with bundle := { t.bundle with readData := d, error := e, strobe := z } }

/-! ### The multiplexer -/

/-- 41_signal_bundle_mux.md R133: each returned bit is the OR over the responders of their outputs masked by their
select line. -/
def Obligations.ReturnPathOrsTheSelectedOutputs : Prop :=
  ∀ (sels : List Bool) (ds : List Drive),
    ((returnPath sels ds).ready = true ↔ ∃ (k : Nat) (d : Drive), sels[k]? = some true ∧ ds[k]? = some d ∧ d.ready = true) ∧
    ((returnPath sels ds).error = true ↔ ∃ (k : Nat) (d : Drive), sels[k]? = some true ∧ ds[k]? = some d ∧ d.error = true) ∧
    ∀ n, (returnPath sels ds).readData.testBit n = true ↔
      ∃ (k : Nat) (d : Drive), sels[k]? = some true ∧ ds[k]? = some d ∧ d.readData.testBit n = true

/-- 41_signal_bundle_mux.md R134: with nothing selected the return path drives zeros, and no responder changes
(42_wait_state_responder.md R146). -/
def Obligations.NothingSelectedDrivesZeros : Prop :=
  ∀ s : State, s.ctl.phase = .idle → s.bundle.select = List.replicate s.params.nr false → s.bundle.enable = false →
    respondersTurn s =
      .next { s with bundle := { s.bundle with ready := false, error := false, readData := 0 } }

/-- Two select lines asserted are a violated host duty, which the model refuses (41_signal_bundle_mux.md R135). That it
does so at step 3, and the name `multipleSelect`, are the model's choice (log entry 9). -/
def Obligations.TwoSelectLinesAreRefused : Prop :=
  ∀ s : State, 2 ≤ s.bundle.select.count true → respondersTurn s = .refused .multipleSelect

/-- 10_state.md R22: after every cycle the lines agree with the phase. -/
def Obligations.SelectLinesFollowThePhase : Prop :=
  ∀ s t : State, step s = .next t →
    (t.ctl.phase = .idle → t.bundle.enable = false ∧ ∀ k, t.bundle.sel k = false) ∧
    (t.ctl.phase ≠ .idle → t.ctl.actId < t.params.nr ∧ ∀ k, t.bundle.sel k = true ↔ k = t.ctl.actId) ∧
    (t.ctl.phase = .setup → t.bundle.enable = false) ∧
    (t.ctl.phase = .access → t.bundle.enable = true)

/-! ### The responders -/

/-- 42_wait_state_responder.md R142 to R146: what one responder does in each of the five cases. -/
def Obligations.ResponderFollowsItsRules : Prop :=
  ∀ (p : Params) (k : Nat) (q : Port) (r : Responder),
    (q.sel = true → q.enable = false →
      respond p k q r =
        ({ r with waitCnt := p.draw k r.xferN, xferN := r.xferN + 1 },
          { ready := false, readData := 0, error := false })) ∧
    (∀ n, q.sel = true → q.enable = true → r.waitCnt = .num (n + 1) →
      respond p k q r = ({ r with waitCnt := .num n }, { ready := false, readData := 0, error := false })) ∧
    (q.sel = true → q.enable = true → r.waitCnt = .never →
      respond p k q r = (r, { ready := false, readData := 0, error := false })) ∧
    (q.sel = true → q.enable = true → r.waitCnt = .num 0 → q.writeEnable = true →
      respond p k q r =
        ({ r with store := Memory.write r.store q.address q.writeData },
          { ready := true, readData := 0, error := false })) ∧
    (q.sel = true → q.enable = true → r.waitCnt = .num 0 → q.writeEnable = false →
      respond p k q r = (r, { ready := true, readData := Memory.read r.store q.address, error := false })) ∧
    (q.sel = false → respond p k q r = (r, { ready := false, readData := 0, error := false }))

/-- 42_wait_state_responder.md R147, R148: no responder raises `error`, and none reads `strobe`. -/
def Obligations.ResponderNeverErrsAndNeverReadsStrobe : Prop :=
  ∀ (p : Params) (k z : Nat) (q : Port) (r : Responder),
    (respond p k q r).2.error = false ∧ respond p k { q with strobe := z } r = respond p k q r

/-- The responders' turn is the turn against any responders, with the outputs of the spec's own: those are one choice of
the free inputs, and each is low unless its responder is addressed in `ACCESS` (42_wait_state_responder.md R150, R140). -/
def Obligations.WaitStateRespondersAreAmongAllResponders : Prop :=
  ∀ s : State, ∃ ds : List Drive, ds.length = s.responders.length ∧
    (∀ (k : Nat) (d : Drive), ds[k]? = some d → d.ready = true → s.bundle.sel k = true ∧ s.bundle.enable = true) ∧
    respondersTurn s = andThen (turnAgainst ds s) fun t => .next (t.setResponders (respondAll s).responders)

/-- P3 against every responder: if it holds `ready` low for the cycles `waits` and then raises it, `enable` stays up for
one cycle more than those and falls in the cycle after; `read_data` and `error` are what it drives
(42_wait_state_responder.md R150, 40_bus_controller_fsm.md R112). -/
def Obligations.EveryResponderIsWaitedFor : Prop :=
  ∀ (s : State) (first last after : List Drive) (waits : List (List Drive)) (done : Drive),
    bundleOk s.params.nr s.ctl s.bundle = true → s.ctl.phase = .idle → s.request.command ≠ .idle →
    s.request.toInstr.wf s.params = true →
    (∀ ds ∈ waits, ∀ d, ds[s.request.responderId]? = some d → d.ready = false) →
    last[s.request.responderId]? = some done → done.ready = true →
    let line := (List.range s.params.nr).map fun j => decide (j = s.request.responderId)
    (∃ t, cyclesAgainst [first] s = .next t ∧ t.ctl.phase = .setup ∧ t.bundle.select = line ∧
      t.bundle.enable = false) ∧
    (∀ n, n < waits.length → ∃ t, cyclesAgainst (first :: waits.take (n + 1)) s = .next t ∧ t.ctl.phase = .access ∧
      t.bundle.select = line ∧ t.bundle.enable = true ∧ t.bundle.ready = false) ∧
    (∃ t, cyclesAgainst (first :: waits ++ [last]) s = .next t ∧ t.ctl.phase = .access ∧ t.bundle.select = line ∧
      t.bundle.enable = true ∧ t.bundle.ready = true ∧ t.bundle.readData = done.readData ∧
      t.bundle.error = done.error) ∧
    ∃ t, cyclesAgainst (first :: waits ++ [last, after]) s = .next t ∧ t.ctl.phase = .idle ∧
      t.bundle.select = List.replicate s.params.nr false ∧ t.bundle.enable = false ∧ t.bundle.ready = false

/-- A word of a store changes in the completing cycle of a WRITE to it and in no other cycle, to the whole `write_data`,
whatever `strobe` holds (20_memory.md R51, R52, R55; 42_wait_state_responder.md R144). -/
def Obligations.StoresChangeOnlyInACompletingWrite : Prop :=
  ∀ s t : State, s.Inv → step s = .next t → ∀ k a,
    t.memRead k a =
      if t.ctl.phase = .access ∧ t.bundle.ready = true ∧ t.bundle.writeEnable = true ∧ k = t.ctl.actId ∧
          a = t.bundle.address
      then t.bundle.writeData
      else s.memRead k a

/-- 20_memory.md R62: `read_data` is the addressed word in the completing cycle of a READ, and 0 in every other cycle. -/
def Obligations.ReadDataOnlyInTheCompletingCycle : Prop :=
  ∀ s t : State, step s = .next t →
    t.bundle.readData =
      if t.ctl.phase = .access ∧ t.bundle.ready = true ∧ t.bundle.writeEnable = false
      then t.memRead t.ctl.actId t.bundle.address
      else 0

/-! ### Whole transfers -/

/-- 40_bus_controller_fsm.md R113: the course of one transfer with `n` wait cycles, from phase `IDLE` to phase `IDLE`,
while the host leaves it alone or returns the command to Idle. -/
def Obligations.TransferTakesItsCourse : Prop :=
  ∀ (s : State) (r : Responder) (n : Nat),
    s.Inv → s.ctl.phase = .idle → s.request.command ≠ .idle → s.hostWaits → s.nextInput.acts = [] →
    s.responders[s.request.responderId]? = some r → s.params.draw s.request.responderId r.xferN = .num n →
    let line := (List.range s.params.nr).map fun j => decide (j = s.request.responderId)
    let word := fun k a =>
      if s.request.command = .write ∧ k = s.request.responderId ∧ a = s.request.address then s.request.data
      else s.memRead k a
    (∃ t, cycles 1 s = .next t ∧ t.ctl.phase = .setup ∧ t.bundle.select = line ∧ t.bundle.enable = false ∧
      t.bundle.ready = false ∧ t.bundle.address = s.request.address ∧
      (t.bundle.writeEnable = true ↔ s.request.command = .write) ∧
      (s.request.command = .write → t.bundle.writeData = s.request.data) ∧ ∀ k a, t.memRead k a = s.memRead k a) ∧
    (∀ j, 1 ≤ j → j ≤ n → ∃ t, cycles (j + 1) s = .next t ∧ t.ctl.phase = .access ∧ t.bundle.select = line ∧
      t.bundle.enable = true ∧ t.bundle.ready = false ∧ ∀ k a, t.memRead k a = s.memRead k a) ∧
    (∃ t, cycles (n + 2) s = .next t ∧ t.ctl.phase = .access ∧ t.bundle.select = line ∧ t.bundle.enable = true ∧
      t.bundle.ready = true ∧ (∀ k a, t.memRead k a = word k a) ∧
      (s.request.command = .read → t.bundle.readData = s.memRead s.request.responderId s.request.address)) ∧
    (∃ t, cycles (n + 3) s = .next t ∧ t.ctl.phase = .idle ∧ t.bundle.select = List.replicate s.params.nr false ∧
      t.bundle.enable = false ∧ t.bundle.ready = false ∧ t.bundle.readData = 0 ∧ ∀ k a, t.memRead k a = word k a)

/-- 60_exceptions.md R202: against a responder that never raises `ready` the session runs on in `ACCESS` for ever, with
no error and no word changed. -/
def Obligations.StalledTransferNeverEnds : Prop :=
  ∀ (s : State) (r : Responder),
    s.Inv → s.ctl.phase = .idle → s.request.command ≠ .idle → s.hostWaits → s.nextInput.acts = [] →
    s.responders[s.request.responderId]? = some r → s.params.draw s.request.responderId r.xferN = .never →
    ∀ n, ∃ t, cycles (n + 2) s = .next t ∧ t.ctl.phase = .access ∧ t.bundle.enable = true ∧
      t.bundle.ready = false ∧ ∀ k a, t.memRead k a = s.memRead k a

/-- 40_bus_controller_fsm.md R111: a READ or WRITE left in the request is accepted again `N + 3` cycles after it was
accepted, with the same operands, as one more transfer of the responder. -/
def Obligations.LeftoverCommandIsRepeated : Prop :=
  ∀ (s : State) (r : Responder) (n : Nat),
    s.Inv → s.ctl.phase = .idle → s.request.command ≠ .idle →
    (∀ c ∈ s.inputs, c.rst = false ∧ c.acts = []) →
    s.responders[s.request.responderId]? = some r → s.params.draw s.request.responderId r.xferN = .num n →
    ∃ t u, cycles 1 s = .next t ∧ t.ctl.phase = .setup ∧ cycles (n + 4) s = .next u ∧ u.ctl = t.ctl ∧
      u.request = s.request ∧ u.bundle.address = s.request.address ∧
      (∃ r', t.responders[s.request.responderId]? = some r' ∧ r'.xferN = r.xferN + 1) ∧
      ∃ r', u.responders[s.request.responderId]? = some r' ∧ r'.xferN = r.xferN + 2

/-- P1 as 40_bus_controller_fsm.md R112 scopes it: a cycle whose `advance` starts in phase `IDLE` with command Idle
leaves every controller-driven field, every register and every store alone. -/
def Obligations.IdleCycleKeepsTheBus : Prop :=
  ∀ s : State, s.Inv → s.ctl.phase = .idle → s.request.command = .idle → s.nextInput.acts = [] →
    s.nextInput.rst = false →
    ∃ t, step s = .next t ∧ t.bundle = { s.bundle with ready := false, error := false, readData := 0 } ∧
      t.ctl = s.ctl ∧ t.responders = s.responders ∧ t.request = s.request

/-! ### The sampler -/

/-- 43_waveform_sampler.md R162: `sample` puts the current value of the field at the end of its log. -/
def Obligations.SampleLogsEveryField : Prop :=
  ∀ (b : Bundle) (r : Recorder),
    (r.sample b).count = r.count + 1 ∧ (r.sample b).logs.length = r.logs.length ∧
    ∀ (i : Nat) (l : Log), r.logs[i]? = some l →
      (r.sample b).logs[i]? = some ⟨l.name, l.values ++
        [match l.name with
          | .clock => .bit (decide (r.count % 2 = 1))
          | .field .address => .word b.address
          | .field .writeEnable => .bit b.writeEnable
          | .field (.select k) => .bit ((b.select[k]?).getD false)
          | .field .enable => .bit b.enable
          | .field .writeData => .word b.writeData
          | .field .readData => .word b.readData
          | .field .ready => .bit b.ready
          | .field .error => .bit b.error
          | .field .strobe => .word b.strobe]⟩

/-- 43_waveform_sampler.md R172: no cycle, a reset cycle among them, clears or shortens a log; each sample of the cycle
adds one value to each. -/
def Obligations.LogsOnlyGrow : Prop :=
  ∀ s t : State, step s = .next t →
    t.recorder.count = s.recorder.count + (s.nextInput.earlySamples + s.nextInput.samples) ∧
    t.recorder.logs.length = s.recorder.logs.length ∧
    ∀ (i : Nat) (l : Log), s.recorder.logs[i]? = some l →
      ∃ more, more.length = s.nextInput.earlySamples + s.nextInput.samples ∧
        t.recorder.logs[i]? = some ⟨l.name, l.values ++ more⟩

/-- 43_waveform_sampler.md R161: the tracked names, their order and their kinds. -/
def Obligations.TrackedNamesInOrder : Prop :=
  ∀ n : Nat,
    (trackNames n).length = n + 9 ∧
    (trackNames n)[0]? = some .clock ∧ (trackNames n)[1]? = some (.field .address) ∧
    (trackNames n)[2]? = some (.field .writeEnable) ∧
    (∀ k, k < n → (trackNames n)[3 + k]? = some (.field (.select k)) ∧ trackKind (.field (.select k)) = .level) ∧
    (trackNames n)[n + 3]? = some (.field .enable) ∧ (trackNames n)[n + 4]? = some (.field .writeData) ∧
    (trackNames n)[n + 5]? = some (.field .readData) ∧ (trackNames n)[n + 6]? = some (.field .ready) ∧
    (trackNames n)[n + 7]? = some (.field .error) ∧ (trackNames n)[n + 8]? = some (.field .strobe) ∧
    trackKind .clock = .clock ∧
    (∀ f ∈ [BundleField.address, .writeData, .readData, .strobe], trackKind (.field f) = .value) ∧
    ∀ f ∈ [BundleField.writeEnable, .enable, .ready, .error], trackKind (.field f) = .level

/-- 43_waveform_sampler.md R171: `render` returns the whole artefact when every value is of a supported type, and else
TraceFormatError with the first offending name and value. -/
def Obligations.RenderRefusesUnsupportedValues : Prop :=
  ∀ (w : WaveStyle) (r : Recorder),
    ((∀ l ∈ r.logs, ∀ what, Sampled.unsupported what ∉ l.values) → r.render w = .ok (artefact w r)) ∧
    ∀ (before after : List Log) (l : Log) (vs us : List Sampled) (what : String),
      r.logs = before ++ l :: after → (∀ m ∈ before, ∀ x, Sampled.unsupported x ∉ m.values) →
      l.values = vs ++ .unsupported what :: us → (∀ x, Sampled.unsupported x ∉ vs) →
      r.render w = .error (l.name, what)

/-- 30_encoding.md R84: a wave has exactly one character per sample. -/
def Obligations.WaveHasOneCharacterPerSample : Prop :=
  ∀ (w : WaveStyle) (nr : Nat) (r : Recorder), r.Typed nr → ∀ l ∈ r.logs, (waveOf w r.count l).length = r.count

/-- 43_waveform_sampler.md R166: the clock's wave alternates its two markers from `CLK_A` on; the entry has no `data`. -/
def Obligations.ClockWaveAlternates : Prop :=
  ∀ (w : WaveStyle) (count : Nat) (l : Log), trackKind l.name = .clock →
    (∀ i, (waveOf w count l)[i]? = if i < count then some (if i % 2 = 0 then w.clkA else w.clkB) else none) ∧
    dataPair w l = []

/-- 43_waveform_sampler.md R167: the characters of a `level` wave; the entry has no `data`. -/
def Obligations.LevelWaveCharacters : Prop :=
  ∀ (w : WaveStyle) (count : Nat) (l : Log), trackKind l.name = .level →
    (waveOf w count l).length = l.values.length ∧
    (∀ v, l.numbers[0]? = some v → (waveOf w count l)[0]? = some (if v = 1 then w.lvlHi else w.lvlLo)) ∧
    (∀ (i u v : Nat), l.numbers[i]? = some u → l.numbers[i + 1]? = some v →
      (waveOf w count l)[i + 1]? = some (if v = u then w.cont else if v = 1 then w.lvlHi else w.lvlLo)) ∧
    dataPair w l = []

/-- 43_waveform_sampler.md R168: the characters of a `value` wave, and in `data` one hex literal for each `VAL`, in
order. -/
def Obligations.ValueWaveAndItsData : Prop :=
  ∀ (w : WaveStyle) (count : Nat) (l : Log), trackKind l.name = .value →
    (waveOf w count l).length = l.values.length ∧
    (∀ v, l.numbers[0]? = some v → (waveOf w count l)[0]? = some w.val) ∧
    (∀ (i u v : Nat), l.numbers[i]? = some u → l.numbers[i + 1]? = some v →
      (waveOf w count l)[i + 1]? = some (if v = u then w.cont else w.val)) ∧
    dataPair w l =
      [jsonPair w "data" (jsonList w
        ((((List.range l.values.length).filter fun i => decide (i = 0 ∨ l.numbers[i - 1]? ≠ l.numbers[i]?)).filterMap
          fun i => l.numbers[i]?).map fun v => quoted (hexLiteral w (fewestDigits w l.name) v)))]

/-- With the default parameters a hex literal is `0x` and the value in lower-case hexadecimal digits without leading zeros
(30_encoding.md R81). With others it has their prefix, zeros up to their fewest digits, and their letter case: prefix, case
and padding are open in 92_eei_decisions.md D20, and this shape of the parameters is the model's choice (log entry 15). -/
def Obligations.HexLiteralIsPrefixedHexadecimal : Prop :=
  (∀ (t : Track) (v : Nat), hexLiteral {} (fewestDigits {} t) v = "0x".toList ++ Nat.toDigits 16 v) ∧
  ∀ (w : WaveStyle) (n v : Nat),
    hexLiteral w n v =
      w.hexPrefix.toList ++ List.replicate (n - (Nat.toDigits 16 v).length) '0' ++
        (Nat.toDigits 16 v).map fun c => if w.hexUpper then c.toUpper else c

/-- `render` writes nothing of the block or the recorder: a cycle with it and the same cycle without it differ only in
what the host was returned (43_waveform_sampler.md R165). The field that holds that is the model's own (log entry 19). -/
def Obligations.RenderWritesNothing : Prop :=
  ∀ (s : State) (c : CycleInput) (rest : List CycleInput),
    step { s with inputs := { c with render := true } :: rest } =
      andThen (step { s with inputs := { c with render := false } :: rest })
        fun t => .next { t with lastRender := some t.renderReply }

/-- After a TraceFormatError the logs still hold the unsupported value and every later `render` fails the same way, through
every cycle, a reset cycle among them (60_exceptions.md R205). The field `lastRender` is the model's own (log entry
19). -/
def Obligations.TraceFormatErrorIsReturnedAgain : Prop :=
  ∀ (s t : State) (name : Track) (what : String),
    s.recorder.render s.params.wave = .error (name, what) → step s = .next t →
    t.recorder.render t.params.wave = .error (name, what) ∧
      (s.nextInput.render = true → t.lastRender = some (.traceFormatError name what))

/-! ### The session -/

/-- The host may write `strobe` and no other field of the bundle (70_reset_and_hazards.md R230, which says that the model
refuses such a session). That it does so at the very write, and the name `hostDroveBundle`, are the model's choice (log
entry 9). -/
def Obligations.HostMayWriteOnlyStrobe : Prop :=
  (∀ (s : State) (f : BundleField) (v : Nat), f ≠ .strobe →
    hostAct s (.writeBundle f v) = .refused (.hostDroveBundle f)) ∧
  (∀ (s : State) (v : Nat), v < 2 ^ s.params.strbW →
    hostAct s (.writeBundle .strobe v) = .next { s with bundle := { s.bundle with strobe := v } }) ∧
  ∀ (s : State) (f : BundleField) (v : Nat) (rest : List HostAct), f ≠ .strobe →
    s.nextInput.acts = .writeBundle f v :: rest → step s = .refused (.hostDroveBundle f)

/-- Errors are precise: a host's act that raises ConfigurationError leaves the state it found, and a cycle it stops leaves
the state in which the acts before it have taken full effect (60_exceptions.md R204). That the run ends there in a fault
that holds this state is the model's choice (log entry 12). -/
def Obligations.FailingActsHaveNoEffect : Prop :=
  (∀ (s : State) (a : HostAct) (f : Fault), hostAct s a = .fault f → ∃ e, f = .configurationError e s) ∧
  ∀ (s u : State) (before after : List HostAct) (a : HostAct) (f : Fault),
    s.nextInput.acts = before ++ a :: after → hostActs before s.takeInput = .next u → hostAct u a = .fault f →
    ∃ e, step s = .fault (.configurationError e u)

/-- The parameters of a session are constant for its life (00_scope.md R5, 44_construction.md R194). -/
def Obligations.ParametersNeverChange : Prop :=
  ∀ s t : State, step s = .next t → t.params = s.params

/-- A step runs the instruction the presented word decodes to, with the responders' turn and the sample after it
(00_scope.md R11); so does a step that starts from `withFetchWord`, whose place between two transfers is the model's
choice (log entry 4). Where the host writes nothing the request left in place runs. -/
def Obligations.StepRunsTheDecodedRequest : Prop :=
  (∀ (s : State) (w : Nat) (rest : List CycleInput) (i : Instr),
    s.inputs = { acts := [.present w] } :: rest → decode s.params w = .ok i →
    step s =
      andThen (exec i { s with request := requestOf i, inputs := rest })
        fun t => andThen (respondersTurn t) fun u => .next (sampleTimes 1 u)) ∧
  (∀ (s : State) (nbits w : Nat) (i : Instr), decode s.params (w % 2 ^ nbits) = .ok i →
    step (s.withFetchWord nbits w) =
      andThen (exec i { s.betweenTransfers with request := requestOf i })
        fun t => andThen (respondersTurn t) fun u => .next (sampleTimes 1 u)) ∧
  ∀ s : State, s.inputs = [] →
    step s =
      andThen (exec s.request.toInstr s) fun t => andThen (respondersTurn t) fun u => .next (sampleTimes 1 u)

/-- From a state that meets the invariant no cycle stops once the host's own acts are accepted: `advance` and `sample`
raise nothing (60_exceptions.md R200, 40_bus_controller_fsm.md R100). -/
def Obligations.OnlyTheHostCanStopASession : Prop :=
  ∀ s s1 : State, s.Inv → hostActs s.nextInput.acts s.takeInput = .next s1 → ∃ t, step s = .next t

/-- Every cycle keeps the invariant: legal parameters, values that fit, a well-formed request, lines that agree with the
phase, canonical stores, `error` low, typed logs (10_state.md R20 to R29). -/
def Obligations.EveryCycleKeepsTheInvariant : Prop :=
  ∀ s t : State, s.Inv → step s = .next t → t.Inv
end

