-- ==== Sys2Proof/Laws/State.lean ====
section
/-! SUPPORT. The fields of a state after each update of one component, and after the updates of the controller. -/
namespace Sys2Proof.Machine

@[simp] theorem setBundle_params (s : State) (b : Bundle) : (s.setBundle b).params = s.params := rfl
@[simp] theorem setBundle_bundle (s : State) (b : Bundle) : (s.setBundle b).bundle = b := rfl
@[simp] theorem setBundle_request (s : State) (b : Bundle) : (s.setBundle b).request = s.request := rfl
@[simp] theorem setBundle_ctl (s : State) (b : Bundle) : (s.setBundle b).ctl = s.ctl := rfl
@[simp] theorem setBundle_responders (s : State) (b : Bundle) : (s.setBundle b).responders = s.responders := rfl
@[simp] theorem setBundle_recorder (s : State) (b : Bundle) : (s.setBundle b).recorder = s.recorder := rfl
@[simp] theorem setBundle_inputs (s : State) (b : Bundle) : (s.setBundle b).inputs = s.inputs := rfl
@[simp] theorem setBundle_lastRender (s : State) (b : Bundle) : (s.setBundle b).lastRender = s.lastRender := rfl

@[simp] theorem setRequest_params (s : State) (q : Request) : (s.setRequest q).params = s.params := rfl
@[simp] theorem setRequest_bundle (s : State) (q : Request) : (s.setRequest q).bundle = s.bundle := rfl
@[simp] theorem setRequest_request (s : State) (q : Request) : (s.setRequest q).request = q := rfl
@[simp] theorem setRequest_ctl (s : State) (q : Request) : (s.setRequest q).ctl = s.ctl := rfl
@[simp] theorem setRequest_responders (s : State) (q : Request) : (s.setRequest q).responders = s.responders := rfl
@[simp] theorem setRequest_recorder (s : State) (q : Request) : (s.setRequest q).recorder = s.recorder := rfl
@[simp] theorem setRequest_inputs (s : State) (q : Request) : (s.setRequest q).inputs = s.inputs := rfl
@[simp] theorem setRequest_lastRender (s : State) (q : Request) : (s.setRequest q).lastRender = s.lastRender := rfl

@[simp] theorem setCtl_params (s : State) (c : Controller) : (s.setCtl c).params = s.params := rfl
@[simp] theorem setCtl_bundle (s : State) (c : Controller) : (s.setCtl c).bundle = s.bundle := rfl
@[simp] theorem setCtl_request (s : State) (c : Controller) : (s.setCtl c).request = s.request := rfl
@[simp] theorem setCtl_ctl (s : State) (c : Controller) : (s.setCtl c).ctl = c := rfl
@[simp] theorem setCtl_responders (s : State) (c : Controller) : (s.setCtl c).responders = s.responders := rfl
@[simp] theorem setCtl_recorder (s : State) (c : Controller) : (s.setCtl c).recorder = s.recorder := rfl
@[simp] theorem setCtl_inputs (s : State) (c : Controller) : (s.setCtl c).inputs = s.inputs := rfl
@[simp] theorem setCtl_lastRender (s : State) (c : Controller) : (s.setCtl c).lastRender = s.lastRender := rfl

@[simp] theorem setResponders_params (s : State) (rs : List Responder) : (s.setResponders rs).params = s.params := rfl
@[simp] theorem setResponders_bundle (s : State) (rs : List Responder) : (s.setResponders rs).bundle = s.bundle := rfl
@[simp] theorem setResponders_request (s : State) (rs : List Responder) : (s.setResponders rs).request = s.request := rfl
@[simp] theorem setResponders_ctl (s : State) (rs : List Responder) : (s.setResponders rs).ctl = s.ctl := rfl
@[simp] theorem setResponders_responders (s : State) (rs : List Responder) : (s.setResponders rs).responders = rs := rfl
@[simp] theorem setResponders_recorder (s : State) (rs : List Responder) : (s.setResponders rs).recorder = s.recorder := rfl
@[simp] theorem setResponders_inputs (s : State) (rs : List Responder) : (s.setResponders rs).inputs = s.inputs := rfl
@[simp] theorem setResponders_lastRender (s : State) (rs : List Responder) : (s.setResponders rs).lastRender = s.lastRender := rfl

@[simp] theorem setRecorder_params (s : State) (r : Recorder) : (s.setRecorder r).params = s.params := rfl
@[simp] theorem setRecorder_bundle (s : State) (r : Recorder) : (s.setRecorder r).bundle = s.bundle := rfl
@[simp] theorem setRecorder_request (s : State) (r : Recorder) : (s.setRecorder r).request = s.request := rfl
@[simp] theorem setRecorder_ctl (s : State) (r : Recorder) : (s.setRecorder r).ctl = s.ctl := rfl
@[simp] theorem setRecorder_responders (s : State) (r : Recorder) : (s.setRecorder r).responders = s.responders := rfl
@[simp] theorem setRecorder_recorder (s : State) (r : Recorder) : (s.setRecorder r).recorder = r := rfl
@[simp] theorem setRecorder_inputs (s : State) (r : Recorder) : (s.setRecorder r).inputs = s.inputs := rfl
@[simp] theorem setRecorder_lastRender (s : State) (r : Recorder) : (s.setRecorder r).lastRender = s.lastRender := rfl

@[simp] theorem setInputs_params (s : State) (cs : List CycleInput) : (s.setInputs cs).params = s.params := rfl
@[simp] theorem setInputs_bundle (s : State) (cs : List CycleInput) : (s.setInputs cs).bundle = s.bundle := rfl
@[simp] theorem setInputs_request (s : State) (cs : List CycleInput) : (s.setInputs cs).request = s.request := rfl
@[simp] theorem setInputs_ctl (s : State) (cs : List CycleInput) : (s.setInputs cs).ctl = s.ctl := rfl
@[simp] theorem setInputs_responders (s : State) (cs : List CycleInput) : (s.setInputs cs).responders = s.responders := rfl
@[simp] theorem setInputs_recorder (s : State) (cs : List CycleInput) : (s.setInputs cs).recorder = s.recorder := rfl
@[simp] theorem setInputs_inputs (s : State) (cs : List CycleInput) : (s.setInputs cs).inputs = cs := rfl
@[simp] theorem setInputs_lastRender (s : State) (cs : List CycleInput) : (s.setInputs cs).lastRender = s.lastRender := rfl

@[simp] theorem setLastRender_params (s : State) (r : Option RenderReply) : (s.setLastRender r).params = s.params := rfl
@[simp] theorem setLastRender_bundle (s : State) (r : Option RenderReply) : (s.setLastRender r).bundle = s.bundle := rfl
@[simp] theorem setLastRender_request (s : State) (r : Option RenderReply) : (s.setLastRender r).request = s.request := rfl
@[simp] theorem setLastRender_ctl (s : State) (r : Option RenderReply) : (s.setLastRender r).ctl = s.ctl := rfl
@[simp] theorem setLastRender_responders (s : State) (r : Option RenderReply) : (s.setLastRender r).responders = s.responders := rfl
@[simp] theorem setLastRender_recorder (s : State) (r : Option RenderReply) : (s.setLastRender r).recorder = s.recorder := rfl
@[simp] theorem setLastRender_inputs (s : State) (r : Option RenderReply) : (s.setLastRender r).inputs = s.inputs := rfl
@[simp] theorem setLastRender_lastRender (s : State) (r : Option RenderReply) : (s.setLastRender r).lastRender = r := rfl

@[simp] theorem setupToAccess_params (s : State) : (setupToAccess s).params = s.params := rfl
@[simp] theorem setupToAccess_request (s : State) : (setupToAccess s).request = s.request := rfl
@[simp] theorem setupToAccess_responders (s : State) : (setupToAccess s).responders = s.responders := rfl
@[simp] theorem setupToAccess_recorder (s : State) : (setupToAccess s).recorder = s.recorder := rfl
@[simp] theorem setupToAccess_inputs (s : State) : (setupToAccess s).inputs = s.inputs := rfl
@[simp] theorem setupToAccess_lastRender (s : State) : (setupToAccess s).lastRender = s.lastRender := rfl

@[simp] theorem accessToIdle_params (s : State) : (accessToIdle s).params = s.params := rfl
@[simp] theorem accessToIdle_request (s : State) : (accessToIdle s).request = s.request := rfl
@[simp] theorem accessToIdle_responders (s : State) : (accessToIdle s).responders = s.responders := rfl
@[simp] theorem accessToIdle_recorder (s : State) : (accessToIdle s).recorder = s.recorder := rfl
@[simp] theorem accessToIdle_inputs (s : State) : (accessToIdle s).inputs = s.inputs := rfl
@[simp] theorem accessToIdle_lastRender (s : State) : (accessToIdle s).lastRender = s.lastRender := rfl

@[simp] theorem acceptTransfer_params (c : Command) (i a d : Nat) (s : State) : (acceptTransfer c i a d s).params = s.params := rfl
@[simp] theorem acceptTransfer_request (c : Command) (i a d : Nat) (s : State) : (acceptTransfer c i a d s).request = s.request := rfl
@[simp] theorem acceptTransfer_responders (c : Command) (i a d : Nat) (s : State) : (acceptTransfer c i a d s).responders = s.responders := rfl
@[simp] theorem acceptTransfer_recorder (c : Command) (i a d : Nat) (s : State) : (acceptTransfer c i a d s).recorder = s.recorder := rfl
@[simp] theorem acceptTransfer_inputs (c : Command) (i a d : Nat) (s : State) : (acceptTransfer c i a d s).inputs = s.inputs := rfl
@[simp] theorem acceptTransfer_lastRender (c : Command) (i a d : Nat) (s : State) : (acceptTransfer c i a d s).lastRender = s.lastRender := rfl

@[simp] theorem sampleTimes_params (n : Nat) (s : State) : (sampleTimes n s).params = s.params := rfl
@[simp] theorem sampleTimes_bundle (n : Nat) (s : State) : (sampleTimes n s).bundle = s.bundle := rfl
@[simp] theorem sampleTimes_request (n : Nat) (s : State) : (sampleTimes n s).request = s.request := rfl
@[simp] theorem sampleTimes_ctl (n : Nat) (s : State) : (sampleTimes n s).ctl = s.ctl := rfl
@[simp] theorem sampleTimes_responders (n : Nat) (s : State) : (sampleTimes n s).responders = s.responders := rfl
@[simp] theorem sampleTimes_inputs (n : Nat) (s : State) : (sampleTimes n s).inputs = s.inputs := rfl
@[simp] theorem sampleTimes_lastRender (n : Nat) (s : State) : (sampleTimes n s).lastRender = s.lastRender := rfl

@[simp] theorem respondAll_params (s : State) : (respondAll s).params = s.params := rfl
@[simp] theorem respondAll_request (s : State) : (respondAll s).request = s.request := rfl
@[simp] theorem respondAll_ctl (s : State) : (respondAll s).ctl = s.ctl := rfl
@[simp] theorem respondAll_recorder (s : State) : (respondAll s).recorder = s.recorder := rfl
@[simp] theorem respondAll_inputs (s : State) : (respondAll s).inputs = s.inputs := rfl
@[simp] theorem respondAll_lastRender (s : State) : (respondAll s).lastRender = s.lastRender := rfl

@[simp] theorem resetCycle_params (s : State) : (resetCycle s).params = s.params := rfl
@[simp] theorem resetCycle_request (s : State) : (resetCycle s).request = s.request := rfl
@[simp] theorem resetCycle_recorder (s : State) : (resetCycle s).recorder = s.recorder := rfl
@[simp] theorem resetCycle_inputs (s : State) : (resetCycle s).inputs = s.inputs := rfl
@[simp] theorem resetCycle_lastRender (s : State) : (resetCycle s).lastRender = s.lastRender := rfl

@[simp] theorem finishCycle_params (c : CycleInput) (s : State) : (finishCycle c s).params = s.params := rfl
@[simp] theorem finishCycle_bundle (c : CycleInput) (s : State) : (finishCycle c s).bundle = s.bundle := rfl
@[simp] theorem finishCycle_request (c : CycleInput) (s : State) : (finishCycle c s).request = s.request := rfl
@[simp] theorem finishCycle_ctl (c : CycleInput) (s : State) : (finishCycle c s).ctl = s.ctl := rfl
@[simp] theorem finishCycle_responders (c : CycleInput) (s : State) : (finishCycle c s).responders = s.responders := rfl
@[simp] theorem finishCycle_inputs (c : CycleInput) (s : State) : (finishCycle c s).inputs = s.inputs := rfl
@[simp] theorem finishCycle_recorder (c : CycleInput) (s : State) :
    (finishCycle c s).recorder = s.recorder.sampleTimes s.bundle c.samples := rfl
@[simp] theorem finishCycle_lastRender (c : CycleInput) (s : State) :
    (finishCycle c s).lastRender = if c.render then some (finishCycle c s).renderReply else s.lastRender := rfl

@[simp] theorem drive_address (b : Bundle) (d : Drive) : (b.drive d).address = b.address := rfl
@[simp] theorem drive_writeEnable (b : Bundle) (d : Drive) : (b.drive d).writeEnable = b.writeEnable := rfl
@[simp] theorem drive_select (b : Bundle) (d : Drive) : (b.drive d).select = b.select := rfl
@[simp] theorem drive_enable (b : Bundle) (d : Drive) : (b.drive d).enable = b.enable := rfl
@[simp] theorem drive_writeData (b : Bundle) (d : Drive) : (b.drive d).writeData = b.writeData := rfl
@[simp] theorem drive_strobe (b : Bundle) (d : Drive) : (b.drive d).strobe = b.strobe := rfl
@[simp] theorem drive_ready (b : Bundle) (d : Drive) : (b.drive d).ready = d.ready := rfl
@[simp] theorem drive_readData (b : Bundle) (d : Drive) : (b.drive d).readData = d.readData := rfl
@[simp] theorem drive_error (b : Bundle) (d : Drive) : (b.drive d).error = d.error := rfl

@[simp] theorem takeInput_inputs (s : State) : s.takeInput.inputs = s.inputs.tail := rfl
@[simp] theorem stayInAccess_eq (s : State) : stayInAccess s = s := rfl
@[simp] theorem setRequest_setRequest (s : State) (p q : Request) : (s.setRequest p).setRequest q = s.setRequest q := rfl
@[simp] theorem setRequest_self (s : State) : s.setRequest s.request = s := rfl
@[simp] theorem takeInput_params (s : State) : s.takeInput.params = s.params := rfl
@[simp] theorem takeInput_bundle (s : State) : s.takeInput.bundle = s.bundle := rfl
@[simp] theorem takeInput_request (s : State) : s.takeInput.request = s.request := rfl
@[simp] theorem takeInput_ctl (s : State) : s.takeInput.ctl = s.ctl := rfl
@[simp] theorem takeInput_responders (s : State) : s.takeInput.responders = s.responders := rfl
@[simp] theorem takeInput_recorder (s : State) : s.takeInput.recorder = s.recorder := rfl
@[simp] theorem takeInput_lastRender (s : State) : s.takeInput.lastRender = s.lastRender := rfl

@[simp] theorem toInstr_requestOf (i : Instr) : (requestOf i).toInstr = i := by cases i <;> rfl
@[simp] theorem requestOf_toInstr (q : Request) : requestOf q.toInstr = q := by
  obtain ⟨c, a, d, r⟩ := q
  cases c <;> rfl
@[simp] theorem mkInstr_command (c : Command) (r a d : Nat) : (mkInstr c r a d).command = c := by cases c <;> rfl
@[simp] theorem mkInstr_responderId (c : Command) (r a d : Nat) : (mkInstr c r a d).responderId = r := by
  cases c <;> rfl
@[simp] theorem mkInstr_address (c : Command) (r a d : Nat) : (mkInstr c r a d).address = a := by cases c <;> rfl
@[simp] theorem mkInstr_data (c : Command) (r a d : Nat) : (mkInstr c r a d).data = d := by cases c <;> rfl
@[simp] theorem mkInstr_fields (i : Instr) : mkInstr i.command i.responderId i.address i.data = i := by cases i <;> rfl

/-! ### Sequencing -/

@[simp] theorem andThen_next (s : State) (f : State → Out) : andThen (.next s) f = f s := rfl
@[simp] theorem andThen_fault (e : Fault) (f : State → Out) : andThen (.fault e) f = .fault e := rfl
@[simp] theorem andThen_refused (r : Refusal) (f : State → Out) : andThen (.refused r) f = .refused r := rfl

/-- Two operations in sequence answer a next state only through a next state of the first. -/
theorem andThen_eq_next {o : Out} {f : State → Out} {t : State} :
    andThen o f = .next t ↔ ∃ s, o = .next s ∧ f s = .next t := by
  cases o <;> simp

theorem andThen_assoc (o : Out) (f g : State → Out) :
    andThen (andThen o f) g = andThen o fun s => andThen (f s) g := by
  cases o <;> rfl

end Sys2Proof.Machine
end

