-- ==== Sys2Proof/Laws/Controller.lean ====
section
/-! SUPPORT. The operand tests, and everything one `advance` can do. -/
namespace Sys2Proof.Machine

theorem firstError_eq_none {ts : List (Bool × ConfigError)} :
    firstError ts = none ↔ ∀ t ∈ ts, t.1 = false := by
  induction ts with
  | nil => simp [firstError]
  | cons t ts ih =>
    obtain ⟨bad, e⟩ := t
    cases bad <;> simp [firstError, ih]

/-- The operand tests pass exactly on the well-formed requests. -/
theorem requestTests_pass {p : Params} {c : Command} {r a d : Nat} :
    firstError (requestTests p c r a d) = none ↔ (mkInstr c r a d).wf p = true := by
  simp [firstError_eq_none, requestTests, Instr.wf, Instr.idOk, Instr.addressOk, Instr.dataOk, and_assoc]

theorem checked_of_pass {ts : List (Bool × ConfigError)} (h : firstError ts = none) (stop : ConfigError → Out)
    (go : Out) : checked stop ts go = go := by
  simp [checked, h]

theorem checked_eq_next {stop : ConfigError → Out} (hs : ∀ e t, stop e ≠ .next t) {ts : List (Bool × ConfigError)}
    {go : Out} {t : State} : checked stop ts go = .next t ↔ firstError ts = none ∧ go = .next t := by
  unfold checked
  cases firstError ts <;> simp [hs]

theorem noMeaning_ne_next (e : ConfigError) (t : State) : noMeaning e ≠ .next t := by simp [noMeaning]

theorem raiseConfiguration_ne_next (s : State) (e : ConfigError) (t : State) : raiseConfiguration s e ≠ .next t := by
  simp [raiseConfiguration]

/-- The `write_data` that an accepted command puts on the bundle: its own data for WRITE, else what is there. -/
def acceptedData (i : Instr) (s : State) : Nat :=
  if i.command = .write then i.data else s.bundle.writeData

/-- Everything one `advance` can do. -/
theorem exec_cases {i : Instr} {s t : State} (h : exec i s = .next t) :
    (s.ctl.phase = .idle ∧ i.command = .idle ∧ t = s) ∨
    (s.ctl.phase = .idle ∧ i.command ≠ .idle ∧ i.wf s.params = true ∧
      t = acceptTransfer i.command i.responderId i.address (acceptedData i s) s) ∨
    (s.ctl.phase = .setup ∧ t = setupToAccess s) ∨
    (s.ctl.phase = .access ∧ s.bundle.ready = false ∧ t = s) ∨
    (s.ctl.phase = .access ∧ s.bundle.ready = true ∧ t = accessToIdle s) := by
  have busy : ∀ o, s.ctl.phase ≠ .idle → advance o s = .next t →
      (s.ctl.phase = .setup ∧ t = setupToAccess s) ∨
      (s.ctl.phase = .access ∧ s.bundle.ready = false ∧ t = s) ∨
      (s.ctl.phase = .access ∧ s.bundle.ready = true ∧ t = accessToIdle s) := by
    intro o hp ho
    unfold advance at ho
    cases hph : s.ctl.phase <;> cases hr : s.bundle.ready <;> simp_all
  by_cases hp : s.ctl.phase = .idle
  · cases i with
    | idle r a d =>
      simp only [exec, execIdle, advance, hp, Host.Outcome.next.injEq] at h
      exact .inl ⟨hp, rfl, h.symm⟩
    | read r a d =>
      simp only [exec, execRead, advance, hp, checked_eq_next noMeaning_ne_next, requestTests_pass, Host.Outcome.next.injEq] at h
      exact .inr (.inl ⟨hp, by simp [Instr.command], h.1, h.2.symm⟩)
    | write r a d =>
      simp only [exec, execWrite, advance, hp, checked_eq_next noMeaning_ne_next, requestTests_pass, Host.Outcome.next.injEq] at h
      exact .inr (.inl ⟨hp, by simp [Instr.command], h.1, h.2.symm⟩)
  · cases i with
    | idle r a d => exact .inr (.inr (busy _ hp h))
    | read r a d => exact .inr (.inr (busy _ hp h))
    | write r a d => exact .inr (.inr (busy _ hp h))

/-- A well-formed command answers a next state in every phase. -/
theorem exec_next_of_wf {i : Instr} {s : State} (h : i.wf s.params = true) : ∃ t, exec i s = .next t := by
  cases i with
  | idle r a d => cases hp : s.ctl.phase <;> simp [exec, execIdle, advance, hp]
  | read r a d =>
    have hc := requestTests_pass.mpr (show (mkInstr .read r a d).wf s.params = true from h)
    cases hp : s.ctl.phase <;> simp [exec, execRead, advance, hp, checked_of_pass hc]
  | write r a d =>
    have hc := requestTests_pass.mpr (show (mkInstr .write r a d).wf s.params = true from h)
    cases hp : s.ctl.phase <;> simp [exec, execWrite, advance, hp, checked_of_pass hc]

/-- `advance` leaves every component but the bundle and the controller alone. -/
theorem exec_frame {i : Instr} {s t : State} (h : exec i s = .next t) :
    t.params = s.params ∧ t.request = s.request ∧ t.responders = s.responders ∧ t.recorder = s.recorder ∧
      t.inputs = s.inputs ∧ t.lastRender = s.lastRender := by
  rcases exec_cases h with ⟨-, -, rfl⟩ | ⟨-, -, -, rfl⟩ | ⟨-, rfl⟩ | ⟨-, -, rfl⟩ | ⟨-, -, rfl⟩ <;>
    exact ⟨rfl, rfl, rfl, rfl, rfl, rfl⟩

/-- `advance` raises no error (40_bus_controller_fsm.md R100). -/
theorem exec_ne_fault (i : Instr) (s : State) (f : Fault) : exec i s ≠ .fault f := by
  have gate : ∀ (ts : List (Bool × ConfigError)) (u : State), checked noMeaning ts (.next u) ≠ .fault f := by
    intro ts u
    unfold checked
    cases firstError ts <;> simp [noMeaning]
  cases i <;> cases hp : s.ctl.phase <;> simp [exec, execIdle, execRead, execWrite, advance, hp, gate]

/-! ### Select lines -/

@[simp] theorem length_oneHot (n i : Nat) : (oneHot n i).length = n := by simp [oneHot]

@[simp] theorem length_noSelect (n : Nat) : (noSelect n).length = n := by simp [noSelect]

theorem getElem?_oneHot (n i j : Nat) : (oneHot n i)[j]? = if j < n then some (decide (j = i)) else none := by
  unfold oneHot
  by_cases h : j < n <;> simp [h]

/-- Lowering the raised line of a one-hot select leaves none up. -/
theorem set_oneHot (n i : Nat) : (oneHot n i).set i false = noSelect n := by
  apply List.ext_getElem?
  intro j
  simp only [List.getElem?_set, getElem?_oneHot, noSelect, List.getElem?_replicate, length_oneHot]
  by_cases hj : j < n <;> by_cases hi : i = j
  · subst hi
    simp [hj]
  · simp [hj, hi, Ne.symm hi]
  · subst hi
    simp [hj]
  · simp [hj, hi]

theorem sel_of_oneHot {b : Bundle} {n i : Nat} (h : b.select = oneHot n i) (k : Nat) :
    b.sel k = decide (k < n ∧ k = i) := by
  simp only [Bundle.sel, h, getElem?_oneHot]
  by_cases hk : k < n <;> simp [hk]

theorem sel_of_noSelect {b : Bundle} {n : Nat} (h : b.select = noSelect n) (k : Nat) : b.sel k = false := by
  simp only [Bundle.sel, h, noSelect, List.getElem?_replicate]
  by_cases hk : k < n <;> simp [hk]

/-- What the agreement of the lines with the phase says, phase by phase (10_state.md R22). -/
theorem bundleOk_iff {nr : Nat} {c : Controller} {b : Bundle} :
    bundleOk nr c b = true ↔
      (c.phase = .idle → b.select = noSelect nr ∧ b.enable = false) ∧
      (c.phase ≠ .idle → c.actId < nr ∧ b.select = oneHot nr c.actId ∧ b.enable = decide (c.phase = .access)) := by
  unfold bundleOk
  cases hp : c.phase <;> simp [and_assoc]

end Sys2Proof.Machine
end

