-- ==== Sys2Proof/Laws/Memory.lean ====
section
/-! SUPPORT. One store: a read after a write, and the canonical form every operation keeps. -/
namespace Sys2Proof

@[simp] theorem Memory.read_cons (a : Nat) (v : Nat) (m : Memory) (b : Nat)
    (h : ∀ c ∈ m, c.1 ≠ a) : Memory.read (Memory.cons a v m) b = if a = b then v else Memory.read m b := by
  unfold Memory.cons
  split
  · rename_i hv
    split
    · subst hv
      rename_i hab
      subst hab
      induction m with
      | nil => rfl
      | cons c m ih =>
        have hc := h c (by simp)
        simp only [Memory.read, hc, if_false]
        exact ih fun d hd => h d (by simp [hd])
    · rfl
  · simp [Memory.read]

/-- Every address of a canonical store's tail lies above the head's. -/
theorem Memory.wf_cons {a : Nat} {v : Nat} {m : Memory} :
    Memory.wf ((a, v) :: m) = true ↔
      v ≠ Memory.unlisted ∧ (∀ c ∈ m, a < c.1) ∧ Memory.wf m = true := by
  simp [Memory.wf, and_assoc]

/-- In a canonical store an address below all listed ones is not listed. -/
theorem Memory.read_of_lt {m : Memory} {a : Nat} (h : ∀ c ∈ m, a < c.1) : Memory.read m a = Memory.unlisted := by
  induction m with
  | nil => rfl
  | cons c m ih =>
    have hc := h c (by simp)
    simp only [Memory.read, show ¬ c.1 = a by omega, if_false]
    exact ih fun d hd => h d (by simp [hd])

/-- The addresses a write lists. -/
theorem Memory.mem_write {m : Memory} {a : Nat} {v : Nat} {c : WordCell} (h : c ∈ Memory.write m a v) :
    c = (a, v) ∨ c ∈ m := by
  induction m with
  | nil =>
    unfold Memory.write Memory.cons at h
    split at h <;> simp_all
  | cons d m ih =>
    obtain ⟨b, w⟩ := d
    simp only [Memory.write, Memory.cons] at h
    split_ifs at h <;> simp_all <;> tauto

/-- A write keeps the canonical form. -/
theorem Memory.wf_write {m : Memory} (h : Memory.wf m = true) (a : Nat) (v : Nat) :
    Memory.wf (Memory.write m a v) = true := by
  induction m with
  | nil =>
    unfold Memory.write Memory.cons
    split <;> simp_all [Memory.wf]
  | cons d m ih =>
    obtain ⟨b, w⟩ := d
    obtain ⟨hw, hb, hm⟩ := Memory.wf_cons.mp h
    simp only [Memory.write, Memory.cons]
    split_ifs with h1 h2 h3 h4
    · exact h
    · refine Memory.wf_cons.mpr ⟨h2, ?_, h⟩
      intro c hc
      rcases List.mem_cons.mp hc with rfl | hc
      · exact h1
      · exact Nat.lt_trans h1 (hb c hc)
    · exact hm
    · exact Memory.wf_cons.mpr ⟨h4, fun c hc => h3 ▸ hb c hc, hm⟩
    · refine Memory.wf_cons.mpr ⟨hw, ?_, ih hm⟩
      intro c hc
      rcases Memory.mem_write hc with rfl | hc
      · show b < a
        omega
      · exact hb c hc

/-- A write changes the word it names and no other (20_memory.md R51). -/
theorem Memory.read_write {m : Memory} (h : Memory.wf m = true) (a : Nat) (v : Nat) (b : Nat) :
    Memory.read (Memory.write m a v) b = if a = b then v else Memory.read m b := by
  induction m with
  | nil => simp [Memory.write, Memory.read_cons]
  | cons d m ih =>
    obtain ⟨c, w⟩ := d
    obtain ⟨-, hc, hm⟩ := Memory.wf_cons.mp h
    have below : ∀ x, x < c → ∀ e ∈ (c, w) :: m, e.1 ≠ x := by
      intro x hx e he
      rcases List.mem_cons.mp he with rfl | he
      · exact Nat.ne_of_gt hx
      · exact Nat.ne_of_gt (Nat.lt_trans hx (hc e he))
    simp only [Memory.write]
    by_cases h1 : a < c
    · rw [if_pos h1, Memory.read_cons _ _ _ _ (below a h1)]
    rw [if_neg h1]
    by_cases h2 : a = c
    · subst h2
      rw [if_pos rfl, Memory.read_cons _ _ _ _ (fun e he => Nat.ne_of_gt (hc e he))]
      by_cases hab : a = b <;> simp [Memory.read, hab]
    · rw [if_neg h2]
      simp only [Memory.read, ih hm]
      by_cases hab : a = b
      · simp [hab, show c ≠ b by omega]
      · simp [hab]

/-- The words of a store stay within the space (20_memory.md R51). -/
theorem Memory.within_write {p : Params} {m : Memory} (h : Memory.within p m = true) {a : Nat} {v : Nat}
    (ha : a < 2 ^ p.aw) (hv : v < 2 ^ p.dw) : Memory.within p (Memory.write m a v) = true := by
  simp only [Memory.within, List.all_eq_true] at *
  intro c hc
  rcases Memory.mem_write hc with rfl | hc
  · simp [ha, hv]
  · exact h c hc

/-- A word read from a store of the space fits `DW` bits. -/
theorem Memory.read_fits {p : Params} {m : Memory} (h : Memory.within p m = true) (a : Nat) :
    Memory.read m a < 2 ^ p.dw := by
  induction m with
  | nil => exact Nat.two_pow_pos _
  | cons c m ih =>
    simp only [Memory.within, List.all_cons, Bool.and_eq_true, decide_eq_true_eq] at h
    simp only [Memory.read]
    split
    · exact h.1.2
    · exact ih (by simpa [Memory.within] using h.2)

theorem Memory.foldl_write_wf (cells : List WordCell) (m : Memory) (h : Memory.wf m = true) :
    Memory.wf (cells.foldl (fun m c => Memory.write m c.1 c.2) m) = true := by
  induction cells generalizing m with
  | nil => exact h
  | cons c cells ih => exact ih _ (Memory.wf_write h c.1 c.2)

/-- The store of a list of assignments is canonical. -/
theorem Memory.wf_ofList (cells : List WordCell) : Memory.wf (Memory.ofList cells) = true :=
  Memory.foldl_write_wf cells [] rfl

theorem Memory.foldl_write_within {p : Params} (cells : List WordCell) (m : Memory) (hc : Memory.within p cells = true)
    (h : Memory.within p m = true) : Memory.within p (cells.foldl (fun m c => Memory.write m c.1 c.2) m) = true := by
  induction cells generalizing m with
  | nil => exact h
  | cons c cells ih =>
    simp only [Memory.within, List.all_cons, Bool.and_eq_true, decide_eq_true_eq] at hc
    exact ih _ (by simpa [Memory.within] using hc.2) (Memory.within_write h hc.1.1 hc.1.2)

/-- The store of assignments within the space lies within it. -/
theorem Memory.within_ofList {p : Params} (cells : List WordCell) (h : Memory.within p cells = true) :
    Memory.within p (Memory.ofList cells) = true :=
  Memory.foldl_write_within cells [] h rfl

end Sys2Proof
end

