-- ==== Sys2Proof/Laws/Responder.lean ====
section
/-! SUPPORT. Everything the responders' turn can do. -/
namespace Sys2Proof.Machine

/-- The reply of responder `k + j` among those from number `k` on. -/
theorem getElem?_respondFrom (p : Params) (b : Bundle) (rs : List Responder) (k j : Nat) :
    (respondFrom p b k rs)[j]? = (rs[j]?).map (respond p (k + j) (b.port (k + j))) := by
  induction rs generalizing k j with
  | nil => simp [respondFrom]
  | cons r rs ih =>
    cases j with
    | zero => simp [respondFrom]
    | succ j => simp [respondFrom, ih, Nat.add_assoc, Nat.add_comm 1 j]

/-- Responder `k` after the responders' turn (42_wait_state_responder.md R151). -/
theorem respondAll_responder (s : State) (k : Nat) :
    (respondAll s).responders[k]? =
      (s.responders[k]?).map fun r => (respond s.params k (s.bundle.port k) r).1 := by
  simp only [respondAll, List.getElem?_map, getElem?_respondFrom, Option.map_map, Nat.zero_add]
  rfl

@[simp] theorem length_respondAll (s : State) : (respondAll s).responders.length = s.responders.length := by
  have h : ∀ (rs : List Responder) (k : Nat), (respondFrom s.params s.bundle k rs).length = rs.length := by
    intro rs
    induction rs with
    | nil => intro k; rfl
    | cons r rs ih => intro k; simp [respondFrom, ih]
  simp [respondAll, h]

@[simp] theorem orDrive_quiet_left (d : Drive) : orDrive Drive.quiet d = d := by
  cases d
  simp [orDrive, Drive.quiet]

@[simp] theorem orDrive_quiet_right (d : Drive) : orDrive d Drive.quiet = d := by
  cases d
  simp [orDrive, Drive.quiet]

/-- With no line up the return path drives zeros (41_signal_bundle_mux.md R134). -/
theorem returnPath_noSelect (n : Nat) (ds : List Drive) : returnPath (noSelect n) ds = Drive.quiet := by
  induction n generalizing ds with
  | zero => cases ds <;> rfl
  | succ n ih =>
    cases ds with
    | nil => rfl
    | cons d ds =>
      have : noSelect (n + 1) = false :: noSelect n := rfl
      simp [this, returnPath, maskDrive, ih]

/-- With one line up the return path is the selected responder's outputs (41_signal_bundle_mux.md R133). -/
theorem returnPath_oneHot {n i : Nat} (hi : i < n) (ds : List Drive) :
    returnPath (oneHot n i) ds = (ds[i]?).getD Drive.quiet := by
  induction n generalizing i ds with
  | zero => omega
  | succ n ih =>
    cases ds with
    | nil => cases h : oneHot (n + 1) i <;> rfl
    | cons d ds =>
      have hs : oneHot (n + 1) i = decide (0 = i) :: (List.range n).map fun j => decide (j + 1 = i) := by
        simp [oneHot, List.range_succ_eq_map, Function.comp_def]
      cases i with
      | zero =>
        have : (List.range n).map (fun j => decide (j + 1 = 0)) = noSelect n := by
          simp [noSelect, List.map_const']
        rw [hs, this, returnPath, returnPath_noSelect]
        simp [maskDrive]
      | succ i =>
        have : (List.range n).map (fun j => decide (j + 1 = i + 1)) = oneHot n i := by
          simp [oneHot]
        rw [hs, this, returnPath, ih (by omega : i < n)]
        simp [maskDrive]

/-- Between transfers the responders keep their state and the return path drives zeros. -/
theorem respondAll_idle {s : State} (h : s.bundle.select = noSelect s.params.nr) :
    respondAll s = s.setBundle (s.bundle.drive Drive.quiet) := by
  have hr : (respondAll s).responders = s.responders := by
    apply List.ext_getElem?
    intro k
    rw [respondAll_responder]
    have : (s.bundle.port k).sel = false := sel_of_noSelect h k
    cases s.responders[k]? <;> simp [respond, this, respondIgnore]
  have hb : (respondAll s).bundle = s.bundle.drive Drive.quiet := by
    simp [respondAll, h, returnPath_noSelect]
  cases s
  simp_all [respondAll, State.setBundle]

/-- The outputs of a responder that does not exist are none. -/
def replyOf (s : State) : Drive :=
  ((s.responders[s.ctl.actId]?).map fun r =>
    (respond s.params s.ctl.actId (s.bundle.port s.ctl.actId) r).2).getD Drive.quiet

/-- During a transfer the return path carries the addressed responder's outputs. -/
theorem respondAll_bundle {s : State} (hi : s.ctl.actId < s.params.nr)
    (h : s.bundle.select = oneHot s.params.nr s.ctl.actId) :
    (respondAll s).bundle = s.bundle.drive (replyOf s) := by
  simp only [respondAll, replyOf, h, returnPath_oneHot hi, List.getElem?_map, getElem?_respondFrom, Option.map_map,
    Nat.zero_add]
  rfl

/-- During a transfer a responder that is not addressed keeps its state. -/
theorem respondAll_other {s : State} (h : s.bundle.select = oneHot s.params.nr s.ctl.actId) {k : Nat}
    (hk : k ≠ s.ctl.actId) : (respondAll s).responders[k]? = s.responders[k]? := by
  rw [respondAll_responder]
  have : (s.bundle.port k).sel = false := by
    show s.bundle.sel k = false
    rw [sel_of_oneHot h]
    simp [hk]
  cases s.responders[k]? <;> simp [respond, this, respondIgnore]

/-- During a transfer the addressed responder sees its line up. -/
theorem port_sel {s : State} (hi : s.ctl.actId < s.params.nr)
    (h : s.bundle.select = oneHot s.params.nr s.ctl.actId) : (s.bundle.port s.ctl.actId).sel = true := by
  show s.bundle.sel s.ctl.actId = true
  rw [sel_of_oneHot h]
  simp [hi]

/-- Everything a responder can do in one cycle (42_wait_state_responder.md R142 to R146). -/
theorem respond_cases (p : Params) (k : Nat) (q : Port) (r : Responder) :
    (q.sel = false ∧ respond p k q r = respondIgnore r) ∨
    (q.sel = true ∧ q.enable = false ∧ respond p k q r = respondSetup p k r) ∨
    (q.sel = true ∧ q.enable = true ∧ r.waitCnt ≠ .num 0 ∧ respond p k q r = respondWait r) ∨
    (q.sel = true ∧ q.enable = true ∧ r.waitCnt = .num 0 ∧ q.writeEnable = true ∧
      respond p k q r = respondWrite q r) ∨
    (q.sel = true ∧ q.enable = true ∧ r.waitCnt = .num 0 ∧ q.writeEnable = false ∧
      respond p k q r = respondRead q r) := by
  unfold respond
  cases q.sel <;> cases q.enable <;> by_cases hw : r.waitCnt = .num 0 <;> cases q.writeEnable <;> simp [hw]

theorem respondersTurn_eq_next {s t : State} :
    respondersTurn s = .next t ↔ bundleOk s.params.nr s.ctl s.bundle = true ∧ t = respondAll s := by
  unfold respondersTurn
  cases bundleOk s.params.nr s.ctl s.bundle <;> simp [eq_comm]

end Sys2Proof.Machine
end

