-- ==== Sys2Proof/Laws/Sampler.lean ====
section
/-! SUPPORT. The recorder: what a sample does to a log, and the recorder's types. -/
namespace Sys2Proof.Machine

@[simp] theorem sample_count (b : Bundle) (r : Recorder) : (r.sample b).count = r.count + 1 := rfl

@[simp] theorem sample_names (b : Bundle) (r : Recorder) : (r.sample b).logs.map Log.name = r.logs.map Log.name := by
  simp [Recorder.sample, Function.comp_def]

theorem sampleTimes_sampleTimes (m n : Nat) (s : State) :
    sampleTimes n (sampleTimes m s) = sampleTimes (m + n) s := by
  have h : ∀ (m : Nat) (r : Recorder),
      Recorder.sampleTimes s.bundle n (Recorder.sampleTimes s.bundle m r) = Recorder.sampleTimes s.bundle (m + n) r := by
    intro m
    induction m with
    | zero => intro r; rw [Nat.zero_add]; rfl
    | succ m ih => intro r; rw [Nat.add_right_comm]; exact ih (r.sample s.bundle)
  simp [sampleTimes, State.setRecorder, h]

@[simp] theorem sampleTimes_zero (s : State) : sampleTimes 0 s = s := rfl

/-- A sampled value has the type of its name (43_waveform_sampler.md R161). -/
theorem trackValue_hasKind (n : Nat) (b : Bundle) (t : Track) : (trackValue n b t).hasKind (trackKind t) = true := by
  cases t with
  | clock => rfl
  | field f => cases f <;> rfl

/-- A sample keeps the recorder typed. -/
theorem sample_typed {nr : Nat} {r : Recorder} (h : r.Typed nr) (b : Bundle) : (r.sample b).Typed nr := by
  constructor
  · rw [sample_names]
    exact h.names
  · intro l hl
    obtain ⟨l', hl', rfl⟩ := List.mem_map.mp hl
    simp [h.lengths l' hl']
  · intro l hl v hv
    obtain ⟨l', hl', rfl⟩ := List.mem_map.mp hl
    rcases List.mem_append.mp hv with hv | hv
    · exact h.kinds l' hl' v hv
    · rw [List.mem_singleton.mp hv]
      exact trackValue_hasKind _ _ _

theorem sampleTimes_typed {nr : Nat} {r : Recorder} (h : r.Typed nr) (b : Bundle) (n : Nat) :
    (r.sampleTimes b n).Typed nr := by
  induction n generalizing r with
  | zero => exact h
  | succ n ih => exact ih (sample_typed h b)

/-- Samples only append (10_state.md R29). -/
theorem sampleTimes_extends (b : Bundle) (n : Nat) (r : Recorder) (i : Nat) (l : Log) (h : r.logs[i]? = some l) :
    ∃ more, more.length = n ∧ (r.sampleTimes b n).logs[i]? = some ⟨l.name, l.values ++ more⟩ := by
  induction n generalizing r l with
  | zero => exact ⟨[], rfl, by simpa [Recorder.sampleTimes] using h⟩
  | succ n ih =>
    obtain ⟨more, hm, hl⟩ := ih (r.sample b) ⟨l.name, l.values ++ [trackValue r.count b l.name]⟩
      (by simp [Recorder.sample, h])
    exact ⟨trackValue r.count b l.name :: more, by simp [hm], by simpa [Recorder.sampleTimes] using hl⟩

@[simp] theorem sampleTimes_logs_length (b : Bundle) (n : Nat) (r : Recorder) :
    (r.sampleTimes b n).logs.length = r.logs.length := by
  induction n generalizing r with
  | zero => rfl
  | succ n ih => simp [Recorder.sampleTimes, ih, Recorder.sample]

@[simp] theorem sampleTimes_count (b : Bundle) (n : Nat) (r : Recorder) :
    (r.sampleTimes b n).count = r.count + n := by
  induction n generalizing r with
  | zero => rfl
  | succ n ih => simp [Recorder.sampleTimes, ih]; omega

theorem firstUnsupported_sample {ls : List Log} {bad : Track × String} (g : Track → Sampled)
    (h : firstUnsupported ls = some bad) :
    firstUnsupported (ls.map fun l => { l with values := l.values ++ [g l.name] }) = some bad ∨
      ∃ l ∈ ls, ∃ what, g l.name = .unsupported what := by
  have front : ∀ (vs : List Sampled) (v : Sampled), unsupportedIn (vs ++ [v]) = (unsupportedIn vs).or (unsupportedIn [v]) := by
    intro vs v
    induction vs with
    | nil => rfl
    | cons u us ih => cases u <;> simp [unsupportedIn, ih]
  by_cases hg : ∃ l ∈ ls, ∃ what, g l.name = .unsupported what
  · exact .inr hg
  · left
    induction ls with
    | nil => simp [firstUnsupported] at h
    | cons l ls ih =>
      have hl : unsupportedIn [g l.name] = none := by
        cases hv : g l.name with
        | bit b => rfl
        | word v => rfl
        | unsupported what => exact absurd ⟨l, by simp, what, hv⟩ hg
      simp only [List.map_cons, firstUnsupported, front, hl, Option.or_none] at h ⊢
      cases hu : unsupportedIn l.values with
      | some what => simpa [hu] using h
      | none =>
        simp only [hu] at h ⊢
        exact ih h fun ⟨m, hm, hw⟩ => hg ⟨m, List.mem_cons_of_mem _ hm, hw⟩

/-- An unsupported value stays the first one through every later sample, since logs only grow (60_exceptions.md R205). -/
theorem firstUnsupported_sampleTimes {r : Recorder} {bad : Track × String} (h : firstUnsupported r.logs = some bad)
    (b : Bundle) (n : Nat) : firstUnsupported (r.sampleTimes b n).logs = some bad := by
  induction n generalizing r with
  | zero => exact h
  | succ n ih =>
    refine ih ((firstUnsupported_sample (trackValue r.count b) h).resolve_right ?_)
    rintro ⟨l, -, what, hw⟩
    cases hn : l.name with
    | clock => simp [hn, trackValue] at hw
    | field f => cases f <;> simp [hn, trackValue, Bundle.value] at hw

end Sys2Proof.Machine
end

