-- ==== Sys2Proof/Laws/Cycle.lean ====
section
/-! SUPPORT. Everything the host's acts and one clock cycle can do. -/
namespace Sys2Proof.Machine

/-- A word the decoder accepts holds a well-formed request. -/
theorem wf_of_decode {p : Params} {w : Nat} {i : Instr} (h : decode p w = .ok i) : i.wf p = true := by
  unfold decode at h
  split at h
  · cases h
  · split at h
    · cases h
    · unfold decodeFields at h
      split at h
      · cases h
      · rename_i hid
        cases h
        simp [Instr.wf, Instr.idOk, Instr.addressOk, Instr.dataOk, Nat.lt_of_not_le hid]
        simp [slice, Nat.mod_lt]

/-- An accepted `make_transfer` returns a fresh Idle request of the arguments, which pass every test. -/
theorem makeTransfer_ok {mx a d aw dw nr r : Nat} {b : Bundle} {q : Request}
    (h : makeTransfer mx a d aw dw nr r = .ok (b, q)) :
    b = zeroBundle nr ∧ q = { command := .idle, address := a, data := d, responderId := r } ∧
      1 ≤ dw ∧ dw ≤ mx ∧ 1 ≤ aw ∧ 1 ≤ nr ∧ r < nr ∧ a < 2 ^ aw ∧ d < 2 ^ dw := by
  unfold makeTransfer at h
  split at h
  · cases h
  · rename_i hn
    simp only [Except.ok.injEq, Prod.mk.injEq] at h
    refine ⟨h.1.symm, h.2.symm, ?_⟩
    simp [firstError_eq_none, makeTransferTests] at hn
    omega

/-- `NR` ids fit the id field (00_scope.md R6). -/
theorem nr_le_two_pow_idW (p : Params) : p.nr ≤ 2 ^ p.idW := by
  have h : p.nr ≤ 2 ^ clog2 p.nr := by
    unfold clog2
    split
    · simpa using ‹p.nr ≤ 1›
    · have := Nat.lt_log2_self (n := p.nr - 1)
      omega
  exact Nat.le_trans h (Nat.pow_le_pow_right (by omega) (Nat.le_max_left _ _))

/-- Everything an act of the host can do: write a well-formed request, or `strobe`. -/
theorem hostAct_cases {a : HostAct} {s t : State} (h : hostAct s a = .next t) :
    (∃ q, q.toInstr.wf s.params = true ∧ t = s.setRequest q) ∨
    (∃ v, v < 2 ^ s.params.strbW ∧ t = s.setBundle { s.bundle with strobe := v }) := by
  have write : ∀ q, writeRequest q s = .next t → q.toInstr.wf s.params = true ∧ t = s.setRequest q := by
    intro q hq
    rw [writeRequest, checked_eq_next (raiseConfiguration_ne_next s), requestTests_pass] at hq
    exact ⟨hq.1, by simpa [eq_comm] using hq.2⟩
  cases a with
  | present w =>
    simp only [hostAct, presentWord] at h
    split at h
    · rename_i i hi
      exact .inl ⟨requestOf i, by simpa using wf_of_decode hi, by simpa [eq_comm] using h⟩
    · simp [raiseConfiguration] at h
    · simp at h
  | setRequest c r a d =>
    simp only [hostAct, writeFields] at h
    split at h
    · simp [raiseConfiguration] at h
    · exact .inl ⟨_, write _ h⟩
  | makeTransfer a d aw dw nr r =>
    simp only [hostAct, newTransfer] at h
    split at h
    · simp [raiseConfiguration] at h
    · rename_i b q hq
      obtain ⟨-, rfl, -, -, -, -, hr, ha, hd⟩ := makeTransfer_ok hq
      split at h
      · rename_i hp
        obtain ⟨rfl, rfl, rfl⟩ := hp
        refine .inl ⟨_, ?_, by simpa [eq_comm] using h⟩
        have := nr_le_two_pow_idW s.params
        simp [Request.toInstr, Instr.wf, Instr.idOk, Instr.addressOk, Instr.dataOk, Params.idBound, ha, hd]
        omega
      · simp at h
  | writeBundle f v =>
    simp only [hostAct, hostWritesBundle] at h
    split at h
    · split at h
      · rename_i hv
        exact .inr ⟨v, by simpa using hv, by simpa [eq_comm] using h⟩
      · simp at h
    · simp at h
  | stepConcurrently => simp [hostAct] at h

/-- Everything the host's acts of a cycle can do. -/
theorem hostActs_cases {acts : List HostAct} {s t : State} (h : hostActs acts s = .next t) :
    (t.request = s.request ∨ t.request.toInstr.wf s.params = true) ∧
    (t.bundle.strobe = s.bundle.strobe ∨ t.bundle.strobe < 2 ^ s.params.strbW) ∧
    t = (s.setRequest t.request).setBundle { s.bundle with strobe := t.bundle.strobe } := by
  induction acts generalizing s with
  | nil =>
    simp only [hostActs, Host.Outcome.next.injEq] at h
    subst h
    exact ⟨.inl rfl, .inl rfl, rfl⟩
  | cons a acts ih =>
    obtain ⟨u, hu, h⟩ := andThen_eq_next.mp h
    obtain ⟨hq, hb, ht⟩ := ih h
    rcases hostAct_cases hu with ⟨q, hwf, rfl⟩ | ⟨v, hv, rfl⟩
    · exact ⟨.inr (hq.elim (fun e => by rw [e]; exact hwf) id), hb, ht⟩
    · exact ⟨hq, .inr (hb.elim (fun e => by rw [e]; exact hv) id), ht⟩

/-- The host's acts leave everything but the request and `strobe` alone (70_reset_and_hazards.md R230). -/
theorem hostActs_frame {acts : List HostAct} {s t : State} (h : hostActs acts s = .next t) :
    t.params = s.params ∧ t.ctl = s.ctl ∧ t.responders = s.responders ∧ t.recorder = s.recorder ∧
      t.inputs = s.inputs ∧ t.lastRender = s.lastRender ∧ t.bundle = { s.bundle with strobe := t.bundle.strobe } := by
  obtain ⟨-, -, ht⟩ := hostActs_cases h
  rw [ht]
  exact ⟨rfl, rfl, rfl, rfl, rfl, rfl, rfl⟩

/-- A host's act that raises an error leaves the state it found (60_exceptions.md R204). -/
theorem hostAct_fault {a : HostAct} {s : State} {f : Fault} (h : hostAct s a = .fault f) :
    ∃ e, f = .configurationError e s := by
  have write : ∀ q, writeRequest q s = .fault f → ∃ e, f = .configurationError e s := by
    intro q hq
    unfold writeRequest checked raiseConfiguration at hq
    split at hq
    · exact ⟨_, by simpa [eq_comm] using hq⟩
    · simp at hq
  cases a with
  | present w =>
    simp only [hostAct, presentWord, raiseConfiguration] at h
    split at h
    · simp at h
    · exact ⟨_, by simpa [eq_comm] using h⟩
    · simp at h
  | setRequest c r a d =>
    simp only [hostAct, writeFields, raiseConfiguration] at h
    split at h
    · exact ⟨_, by simpa [eq_comm] using h⟩
    · exact write _ h
  | makeTransfer a d aw dw nr r =>
    simp only [hostAct, newTransfer, raiseConfiguration] at h
    split at h
    · exact ⟨_, by simpa [eq_comm] using h⟩
    · split at h <;> simp at h
  | writeBundle f v =>
    simp only [hostAct, hostWritesBundle] at h
    split at h
    · split at h <;> simp at h
    · simp at h
  | stepConcurrently => simp [hostAct] at h

theorem hostActs_append (xs ys : List HostAct) (s : State) :
    hostActs (xs ++ ys) s = andThen (hostActs xs s) (hostActs ys) := by
  induction xs generalizing s with
  | nil => rfl
  | cons x xs ih =>
    simp only [List.cons_append, hostActs]
    cases hostAct s x <;> simp [ih]

/-- Everything one clock cycle can do. -/
theorem step_cases {s t : State} (h : step s = .next t) :
    ∃ s1, hostActs s.nextInput.acts s.takeInput = .next s1 ∧
      ((s.nextInput.rst = true ∧
          t = finishCycle s.nextInput (sampleTimes s.nextInput.earlySamples (resetCycle s1))) ∨
       (s.nextInput.rst = false ∧ ∃ s2, exec s1.request.toInstr s1 = .next s2 ∧
          bundleOk s2.params.nr s2.ctl s2.bundle = true ∧
          t = finishCycle s.nextInput (respondAll (sampleTimes s.nextInput.earlySamples s2)))) := by
  obtain ⟨s1, h1, hb⟩ := andThen_eq_next.mp h
  refine ⟨s1, h1, ?_⟩
  obtain ⟨s3, h3, hf⟩ := andThen_eq_next.mp hb
  cases hr : s.nextInput.rst
  · simp only [hr, busCycle, Bool.false_eq_true, if_false] at h3
    obtain ⟨s2, h2, h3⟩ := andThen_eq_next.mp h3
    obtain ⟨hok, rfl⟩ := respondersTurn_eq_next.mp h3
    exact .inr ⟨rfl, s2, h2, hok, by simpa [eq_comm] using hf⟩
  · simp only [hr, if_true, Host.Outcome.next.injEq] at h3
    subst h3
    exact .inl ⟨rfl, by simpa [eq_comm] using hf⟩

/-- Everything step 3 against any responders can do. -/
theorem turnAgainst_eq_next {ds : List Drive} {s t : State} :
    turnAgainst ds s = .next t ↔
      bundleOk s.params.nr s.ctl s.bundle = true ∧ t = s.setBundle (s.bundle.drive (returnPath s.bundle.select ds)) := by
  unfold turnAgainst
  cases bundleOk s.params.nr s.ctl s.bundle <;> simp [eq_comm]

theorem cyclesAgainst_append (xs ys : List (List Drive)) (s : State) :
    cyclesAgainst (xs ++ ys) s = andThen (cyclesAgainst xs s) (cyclesAgainst ys) := by
  induction xs generalizing s with
  | nil => rfl
  | cons x xs ih =>
    simp only [List.cons_append, cyclesAgainst]
    cases cycleAgainst x s <;> simp [andThen, ih]

end Sys2Proof.Machine
end

