-- ==== Sys2Proof/Laws/PerInstr.lean ====
section
/-! SUPPORT. What holds of every instruction as syntax, one lemma per constructor. -/
namespace Sys2Proof.Laws

/-- The fields above the command do not reach the command's two bits (30_encoding.md R71). -/
theorem encode_mod_four (p : Params) (i : Instr) : encode p i % 4 = i.command.code % 4 := by
  unfold encode
  rw [show p.idW + 2 = 2 + p.idW by omega, show p.aw + p.idW + 2 = 2 + (p.idW + p.aw) by omega, Nat.pow_add 2 2 p.idW,
    Nat.pow_add 2 2 (p.idW + p.aw), Nat.mul_left_comm i.address, Nat.mul_left_comm i.data, Nat.mul_comm i.responderId]
  simp [Nat.add_mul_mod_self_left]

/-- The opcode table's mask and match pick an instruction's word out by its command (30_encoding.md R72). -/
def CommandBits.Statement (i : Instr) : Prop := ∀ p : Params, encode p i &&& 0x3 = i.command.code

theorem commandBits_of_mod {i : Instr} (h : i.command.code < 4) : CommandBits.Statement i := by
  intro p
  have := Nat.and_two_pow_sub_one_eq_mod (encode p i) 2
  simp only [show 2 ^ 2 = 4 from rfl] at this
  rw [this, encode_mod_four, Nat.mod_eq_of_lt h]

theorem CommandBits.idle (r a d : Nat) : CommandBits.Statement (.idle r a d) := commandBits_of_mod (by simp [Instr.command, Command.code])

theorem CommandBits.read (r a d : Nat) : CommandBits.Statement (.read r a d) := commandBits_of_mod (by simp [Instr.command, Command.code])

theorem CommandBits.write (r a d : Nat) : CommandBits.Statement (.write r a d) := commandBits_of_mod (by simp [Instr.command, Command.code])

end Sys2Proof.Laws
end

