-- ==== Sys2Proof/Tests/Slice0.lean ====
section
/-! SUPPORT. Tests of the model against the spec's own vectors (95_test_vectors.md, named in front of each test), the
smoke tests of WellFormed, and for each statement with hypotheses a state and operands that meet them. -/
namespace Sys2Proof.Tests
open Sys2Proof Sys2Proof.Machine

/-! ### Small states -/

/-- The parameters of the derived vectors: `AW = 16`, `DW = 32`, `NR` responders. -/
def params (nr : Nat) : Params := { aw := 16, dw := 32, nr := nr }

/-- Two responders with their draws: `W[0] = 0, 2`, then free, and `W[1] = NEVER` in every transfer. -/
def drawn : Params := { params 2 with draws := [{ listed := [.num 0, .num 2] }, { rest := some .never }] }

/-- A session at rest with responder 0 at its transfer `n`, the request `q`, and the host's plan. -/
def atRest (n : Nat) (q : Request) (inputs : List CycleInput) : State :=
  { State.reset with
    params := drawn, request := q, inputs := inputs
    responders := [{ waitCnt := .num 0, xferN := n, store := [(3, 7)] }, { waitCnt := .num 0, xferN := 0, store := [] }] }

/-- A state of 95_test_vectors.md 2.1: `(phase, act_cmd, act_id / address, write_enable, sel, enable, write_data / ready)`. -/
def vector (phase : Phase) (actCmd : Command) (actId address : Nat) (writeEnable : Bool) (select : List Bool)
    (enable : Bool) (writeData : Nat) (ready : Bool) : State :=
  { State.reset with
    params := drawn
    bundle :=
      { State.reset.bundle with
        address := address, writeEnable := writeEnable, select := select, enable := enable, writeData := writeData,
        ready := ready }
    ctl := { phase := phase, actCmd := actCmd, actId := actId } }

/-- A WRITE of 9 to word 4 of responder `k`. -/
def writeTo (k : Nat) : Request := { command := .write, address := 4, data := 9, responderId := k }

/-- A READ of the last word of responder 0. -/
def readLast : Request := { command := .read, address := 0xffff, data := 0, responderId := 0 }

/-- The request of a host that has returned the command to Idle. -/
def idleRequest : Request := { command := .idle, address := 4, data := 9, responderId := 0 }

/-- The host's plan `t: the request as it is, t+1: IDLE` (30_encoding.md R78). -/
def thenIdle : List CycleInput := [{}, { acts := [.setRequest (some 0) none none none] }]

/-! ### WellFormed smoke: one ill-formed term for each check -/

theorem test_wf_refuses_id : (Instr.read 2 0 0).wf (params 2) = false := by decide
theorem test_wf_refuses_idle_id_too_wide : (Instr.idle 2 0 0).wf (params 1) = false := by decide
theorem test_wf_refuses_address : (Instr.write 0 0x10000 0).wf (params 2) = false := by decide
theorem test_wf_refuses_data : (Instr.read 0 0 0x100000000).wf (params 2) = false := by decide
theorem test_legal_refuses_dw_zero : ({ aw := 16, dw := 0, nr := 1 } : Params).legal = false := by decide
theorem test_legal_refuses_dw_33 : ({ aw := 16, dw := 33, nr := 1 } : Params).legal = false := by decide
theorem test_legal_refuses_aw_zero : ({ aw := 0, dw := 32, nr := 1 } : Params).legal = false := by decide
theorem test_legal_refuses_nr_zero : ({ aw := 16, dw := 32, nr := 0 } : Params).legal = false := by decide
theorem test_memory_wf_refuses_zero_word : Memory.wf [(3, 0)] = false := by decide
theorem test_memory_wf_refuses_falling_addresses : Memory.wf [(4, 1), (3, 1)] = false := by decide
theorem test_memory_within_refuses_address : Memory.within (params 1) [(0x10000, 1)] = false := by decide

/-! ### Decoding: words written bit by bit as `data, address, responder_id, command` (30_encoding.md R71, R72) -/

/-- WRITE, id 0, address 13, data 45, `NR = 1` (V-E1). -/
theorem test_decode_write :
    decode (params 1) 0b00000000000000000000000000101101_0000000000001101_0_10 = .ok (.write 0 13 45) := by decide
/-- READ, id 1, address 0x8001, data 0, `NR = 2` (R71, R72). -/
theorem test_decode_read :
    decode (params 2) 0b00000000000000000000000000000000_1000000000000001_1_01 = .ok (.read 1 0x8001 0) := by decide
/-- IDLE ignores its operands, also an id that does not exist (V-E8). -/
theorem test_decode_idle :
    decode (params 1) 0b00000000000000000000000000101101_0000000000001101_1_00 = .ok (.idle 1 13 45) := by decide
/-- The top bit of every field, `NR = 5` and so `ID_W = 3` (R71). -/
theorem test_decode_top_bits :
    decode (params 5) 0b10000000000000000000000000000000_1000000000000000_100_10 =
      .ok (.write 4 0x8000 0x80000000) := by decide
/-- Command 3 is refused (V-E6). -/
theorem test_decode_reserved : decode (params 1) 0x3 = .error (.config (.command 3)) := by decide
/-- READ of responder 1 of 1 is refused (V-E7). -/
theorem test_decode_no_such_responder : decode (params 1) 0x6d = .error (.config (.responderId 1)) := by decide
/-- Bits above `REQ_W - 1` do not exist (R73). -/
theorem test_decode_above_width : decode (params 1) (2 ^ 51) = .error (.noSuchBits (2 ^ 51)) := by decide
/-- A row of the opcode table, one byte given (opcode_table.json). -/
theorem test_decode_table_rows :
    decodeTableWord 8 0x0 = some (.idle 0 0 0) ∧ decodeTableWord 8 0x1 = some (.read 0 0 0) ∧
      decodeTableWord 8 0x2 = some (.write 0 0 0) ∧ decodeTableWord 8 0x3 = none := by decide
/-- The step after `withFetchWord` runs the word's command, here a WRITE from reset. -/
theorem test_fetch_word_runs :
    (match step (State.reset.withFetchWord 51 0x168006e) with
      | .next t => decide (t.ctl = { phase := .setup, actCmd := .write, actId := 1 } ∧ t.bundle.writeData = 45)
      | .fault _ => false
      | .refused _ => false) = true := by decide
/-- The three numbers of the phases and the numbers of the error classes and causes (30 R74, 60 R200, R201). -/
theorem test_numbers :
    [Phase.idle, .setup, .access].map Phase.code = [0, 1, 2] ∧
      (Fault.configurationError (.command 3) State.reset).errorClass.number = 1 ∧ ErrorClass.protocolStall.number = 2 ∧
      (RenderReply.traceFormatError .clock "x").errorClass.map ErrorClass.number = some 3 ∧
      [ConfigError.dataWidth 0, .addressWidth 0, .responderCount 0, .responderId 0, .address 0, .data 0,
        .command 0].map ConfigError.number = [1, 2, 3, 4, 5, 6, 7] := by decide

/-! ### The commands and the phase steps (95_test_vectors.md 2.1) -/

/-- V-F1: IDLE changes nothing. -/
theorem test_idle :
    exec (.idle 1 7 9) (vector .idle .idle 0 13 true [false, false] false 45 false) =
      .next (vector .idle .idle 0 13 true [false, false] false 45 false) := rfl
/-- V-F8: a spurious `ready` is not read in phase `IDLE`. -/
theorem test_idle_spurious_ready :
    exec (.idle 0 0 0) (vector .idle .idle 0 0 false [false, false] false 0 true) =
      .next (vector .idle .idle 0 0 false [false, false] false 0 true) := rfl
/-- V-F2: READ keeps `write_data` and ignores the request's `data`. -/
theorem test_read :
    exec (.read 1 0xffff 9) (vector .idle .idle 0 13 true [false, false] false 45 false) =
      .next (vector .setup .read 1 0xffff false [false, true] false 45 false) := rfl
/-- V-F7: a transfer that ends does not read the request. -/
theorem test_access_ends :
    exec (.write 0 8 1) (vector .access .read 1 3 false [false, true] true 5 true) =
      .next (vector .idle .idle 1 3 false [false, false] false 5 true) := rfl
/-- V-F3: WRITE of the largest word to address 0. -/
theorem test_write :
    exec (.write 0 0 0xffffffff) (vector .idle .idle 1 0xffff false [false, false] false 45 false) =
      .next (vector .setup .write 0 0 true [true, false] false 0xffffffff false) := rfl
/-- V-F9: WRITE of zero to the last address. -/
theorem test_write_zero :
    exec (.write 1 0xffff 0) (vector .idle .idle 0 0 false [false, false] false 0 false) =
      .next (vector .setup .write 1 0xffff true [false, true] false 0 false) := rfl
/-- V-F4: `SETUP` reads neither the request nor a stale `ready`. -/
theorem test_setup :
    exec (.read 1 3 0) (vector .setup .write 0 0 true [true, false] false 5 true) =
      .next (vector .access .write 0 0 true [true, false] true 5 true) := rfl
/-- V-F5: an `ACCESS` cycle waits. -/
theorem test_access_waits :
    exec (.read 1 3 0) (vector .access .write 0 0 true [true, false] true 5 false) =
      .next (vector .access .write 0 0 true [true, false] true 5 false) := rfl

/-! ### The multiplexer (95_test_vectors.md 2.2) -/

/-- V-M1 to V-M3. -/
theorem test_one_hot :
    oneHot 1 0 = [true] ∧ oneHot 2 1 = [false, true] ∧ oneHot 3 2 = [false, false, true] := by decide
/-- V-M5: an unselected responder's outputs are masked. -/
theorem test_return_path_masks :
    returnPath [false, true] [⟨true, 7, false⟩, ⟨false, 0, false⟩] = ⟨false, 0, false⟩ := by decide
/-- V-M6. -/
theorem test_return_path_selected :
    returnPath [false, true] [⟨false, 0, false⟩, ⟨true, 0x11, false⟩] = ⟨true, 0x11, false⟩ := by decide
/-- V-M8: two lines up are refused. -/
theorem test_two_lines :
    respondersTurn (vector .access .write 0 0 true [true, true] true 5 false) = .refused .multipleSelect := rfl

/-! ### The responder (95_test_vectors.md 2.3) -/

/-- The port of responder 0 with word 4 addressed. -/
def port (sel enable writeEnable : Bool) (writeData : Nat) : Port :=
  { sel := sel, enable := enable, writeEnable := writeEnable, address := 4, writeData := writeData, strobe := 0 }

/-- A responder in the state `(wait_cnt, xfer_n, store[0][4])`. -/
def responder (w : Wait) (n v : Nat) : Responder := { waitCnt := w, xferN := n, store := Memory.ofList [(4, v)] }

/-- V-W6 with `W(0, 1) = 2`: the draw is the transfer's own. -/
theorem test_respond_setup :
    respond drawn 0 (port true false false 9) (responder (.num 0) 1 9) = (responder (.num 2) 2 9, Drive.quiet) := by
  decide
/-- V-W2. -/
theorem test_respond_wait :
    respond drawn 0 (port true true true 9) (responder (.num 2) 1 0) = (responder (.num 1) 1 0, Drive.quiet) := by
  decide
/-- V-W9. -/
theorem test_respond_never :
    respond drawn 0 (port true true false 0) (responder .never 3 9) = (responder .never 3 9, Drive.quiet) := by decide
/-- V-W10: the whole word is written though `strobe = 0`. -/
theorem test_respond_write :
    respond drawn 0 (port true true true 0xffffffff) (responder (.num 0) 1 0) =
      (responder (.num 0) 1 0xffffffff, ⟨true, 0, false⟩) := by decide
/-- V-W7. -/
theorem test_respond_read :
    respond drawn 0 (port true true false 9) (responder (.num 0) 2 9) =
      (responder (.num 0) 2 9, ⟨true, 9, false⟩) := by decide
/-- V-W8: another responder's transfer. -/
theorem test_respond_other :
    respond drawn 0 (port false true true 77) (responder (.num 0) 2 9) = (responder (.num 0) 2 9, Drive.quiet) := by
  decide
/-- Writing zero leaves no word listed (20_memory.md R51). -/
theorem test_store_zero : Memory.write [(4, 9)] 4 0 = [] := by decide

/-! ### The sampler (95_test_vectors.md 2.4) -/

/-- V-T1, V-T2. -/
theorem test_level_waves :
    levelWave {} [1, 1, 0, 0, 1] = "1.0.1".toList ∧ levelWave {} [0] = "0".toList := by decide
/-- V-T4. -/
theorem test_value_wave :
    valueWave {} [0, 13, 0] = "===".toList ∧
      valueData {} 1 [0, 13, 0] = ["0x0".toList, "0xd".toList, "0x0".toList] := by decide
/-- V-T5. -/
theorem test_value_wave_runs :
    valueWave {} [255, 255, 4096] = "=.=".toList ∧
      valueData {} 1 [255, 255, 4096] = ["0xff".toList, "0x1000".toList] := by decide
/-- V-T8. -/
theorem test_clock_wave : clockWaveFrom {} 0 6 = "101010".toList := by decide
/-- V-T10. -/
theorem test_hex : hexLiteral {} 1 4294967295 = "0xffffffff".toList := by decide
/-- 92_eei_decisions.md D20: prefix, letter case and padding are parameters. -/
theorem test_hex_style : hexLiteral { hexPrefix := "16'h", hexUpper := true } 4 0xd = "16'h000D".toList := by decide
/-- 30_encoding.md R82, its example of one entry. -/
theorem test_entry :
    entry {} 5 ⟨.field .address, [.word 0, .word 13, .word 13, .word 13, .word 13]⟩ =
      openBrace :: "\"name\": \"address\", \"wave\": \"==...\", \"data\": [\"0x0\", \"0xd\"]".toList ++ [closeBrace] := by
  decide
/-- The names of 30_encoding.md R83. -/
theorem test_select_name : trackName {} (.field (.select 10)) = "select10".toList := by decide

/-! ### Construction and reset (95_test_vectors.md 2.5, 2.7) -/

/-- V-K1. -/
theorem test_make_transfer :
    makeTransfer 32 13 45 16 32 1 0 = .ok (zeroBundle 1, { command := .idle, address := 13, data := 45, responderId := 0 }) ∧
      (params 1).strbW = 4 ∧ (params 1).idW = 1 := by decide
/-- V-K2. -/
theorem test_make_transfer_largest :
    makeTransfer 32 65535 4294967295 16 32 1 0 =
      .ok (zeroBundle 1, { command := .idle, address := 65535, data := 4294967295, responderId := 0 }) := by decide
/-- V-K4 to V-K9. -/
theorem test_make_transfer_refuses :
    makeTransfer 32 13 45 16 0 1 0 = .error (.dataWidth 0) ∧ makeTransfer 32 13 45 0 32 1 0 = .error (.addressWidth 0) ∧
      makeTransfer 32 13 45 16 32 0 0 = .error (.responderCount 0) ∧
      makeTransfer 32 13 45 16 32 1 1 = .error (.responderId 1) ∧
      makeTransfer 32 65536 45 16 32 1 0 = .error (.address 65536) ∧
      makeTransfer 32 13 4294967296 16 32 1 0 = .error (.data 4294967296) := by decide
/-- V-K10: the first failing test wins. -/
theorem test_make_transfer_order : makeTransfer 32 65536 45 16 33 1 0 = .error (.dataWidth 33) := by decide
/-- 44_construction.md R191 and V-K12. -/
theorem test_widths :
    [1, 2, 3, 4, 5, 8, 9, 16, 17].map (fun n => (params n).idW) = [1, 1, 2, 2, 3, 3, 4, 4, 5] ∧
      [1, 8, 9, 16, 17, 24, 31, 32].map (fun d => ({ params 1 with dw := d } : Params).strbW) =
        [1, 1, 2, 2, 3, 3, 4, 4] := by decide
/-- V-X1: a reset cycle abandons a transfer; the store and the transfer counter stay. -/
theorem test_reset_cycle :
    (resetCycle { vector .access .write 0 13 true [true, false] true 45 false with
      responders := [responder (.num 1) 1 0] }).responders = [responder (.num 0) 1 0] := by decide
/-- The default of 42_wait_state_responder.md R149: `W(k, n) = 0`. -/
theorem test_draw_default : ({ params 2 with draws := [Draws.zero, Draws.zero] } : Params).draw 1 1000 = .num 0 := by decide
/-- A failed `render` is returned to the host and the session goes on (60_exceptions.md R204, R205). -/
theorem test_render_fails_and_goes_on :
    (match step { State.reset with
          recorder := { count := 1, logs := [⟨.field .address, [.unsupported "text"]⟩] }
          inputs := [{ render := true }] } with
      | .next t => decide (t.lastRender = some (.traceFormatError (.field .address) "text") ∧ t.recorder.count = 2)
      | .fault _ => false
      | .refused _ => false) = true := by decide
/-- A second stepper is refused (93 U1). -/
theorem test_second_stepper : hostAct State.reset .stepConcurrently = .refused .concurrentStepping := rfl

/-! ### States and operands that meet the hypotheses of the statements -/

/-- A check that is enough for the invariant of a state in which no responder has wait cycles left. -/
def quietInv (s : State) : Bool :=
  s.params.legal && decide (s.bundle.address < 2 ^ s.params.aw) && decide (s.bundle.select.length = s.params.nr) &&
    decide (s.bundle.writeData < 2 ^ s.params.dw) && decide (s.bundle.readData < 2 ^ s.params.dw) &&
    decide (s.bundle.strobe < 2 ^ s.params.strbW) && s.request.toInstr.wf s.params &&
    bundleOk s.params.nr s.ctl s.bundle && decide (s.ctl.actId < s.params.nr) &&
    decide (s.ctl.actCmd = .idle ↔ s.ctl.phase = .idle) &&
    decide (s.ctl.phase ≠ .idle → (s.bundle.writeEnable = true ↔ s.ctl.actCmd = .write)) &&
    decide (s.responders.length = s.params.nr) &&
    s.responders.all (fun r => Memory.wf r.store && Memory.within s.params r.store && decide (r.waitCnt = .num 0)) &&
    decide (s.bundle.ready = true → s.ctl.phase = .access) && decide (s.bundle.error = false) &&
    decide (s.recorder = State.reset.recorder) && decide (s.params.nr = 2)

theorem inv_of_quietInv {s : State} (h : quietInv s = true) : s.Inv := by
  simp only [quietInv, Bool.and_eq_true, decide_eq_true_eq, List.all_eq_true] at h
  obtain ⟨⟨⟨⟨⟨⟨⟨⟨⟨⟨⟨⟨⟨⟨⟨⟨hl, ha⟩, hsel⟩, hwd⟩, hrd⟩, hst⟩, hwf⟩, hok⟩, hid⟩, hcmd⟩, hdir⟩, hlen⟩, hrs⟩, hrdy⟩, herr⟩, hrec⟩, hnr⟩ := h
  refine ⟨hl, ⟨ha, hsel, hwd, hrd, hst⟩, hwf, hok, hid, hcmd, hdir, hlen, fun r hr => (hrs r hr).1, ?_, ?_, herr, ?_⟩
  · intro k r hk _
    exact (hrs r (List.mem_of_getElem? hk)).2
  · intro hr
    exact ⟨hrdy hr, fun r hk => (hrs r (List.mem_of_getElem? hk)).2⟩
  · rw [hrec, hnr]
    exact ⟨by decide, by decide, by decide⟩

/-- Well-formed requests at the ends of their ranges: `DecodeOfEncodeIsTheRequest`, `PackedRequestLayout`. -/
theorem witness_wf_requests :
    (Instr.write 1 0xffff 0xffffffff).wf (params 2) = true ∧ (Instr.read 0 0 0xffffffff).wf (params 1) = true ∧
      (Instr.idle 1 0xffff 0).wf (params 1) = true := by decide

/-- Accepted words of each command: `EncodeOfDecodeIsTheWord`, `CommandFieldSelectsTheOperation`. -/
theorem witness_accepted_words :
    decode (params 1) (2 ^ 51 - 4) = .ok (.idle 1 0xffff 0xffffffff) ∧ decode (params 1) 1 = .ok (.read 0 0 0) ∧
      decode (params 2) (2 ^ 51 - 2) = .ok (.write 1 0xffff 0xffffffff) := by decide

/-- Each clause of `ReservedAndIllegalWordsAreRefused`. -/
theorem witness_refused_words :
    let s := { State.reset with params := params 1 }
    2 ^ 51 - 1 < 2 ^ s.params.reqW ∧ (2 ^ 51 - 1) &&& 0x3 = 0x3 ∧
      0x6d &&& 0x3 = 0x1 ∧ 0x6e &&& 0x3 = 0x2 ∧ s.params.nr ≤ slice 0x6d 2 s.params.idW ∧
      s.params.nr ≤ slice 0x6e 2 s.params.idW ∧
      0x168006c &&& 0x3 = 0x0 ∧ 0x69 &&& 0x3 = 0x1 ∧ slice 0x69 2 s.params.idW < s.params.nr := by decide

/-- `DerivedWidthsAreTheLeastThatFit`: the least power is met and the next lower is not. -/
theorem witness_least_widths : 1 ≤ 5 ∧ 5 ≤ 2 ^ 3 ∧ clog2 5 = 3 ∧ (params 1).dw ≤ 8 * 4 := by decide

/-- The second clause of `MakeTransferTestsThenBuilds`. -/
theorem witness_second_transfer :
    let p := State.reset.params
    ∃ b q, makeTransfer p.dwMax 65535 4294967295 p.aw p.dw p.nr 1 = .ok (b, q) := ⟨_, _, rfl⟩

/-- Each clause of `HostRequestWritesAreTested`: the first command number that names none, and the last that names one. -/
theorem witness_command_numbers : (2 = 1 ∨ 2 = 2) ∧ 3 ≤ 3 := by decide

/-- `NewPartsHoldTheirInitialValues`, `ConstructedSessionMeetsTheInvariant`: one responder with initial words and one
without. -/
theorem witness_construct :
    let p := { params 2 with storeInit := [[(13, 13)]] }
    (∃ s, construct p 65535 4294967295 1 [] = .ok s) ∧ (0 < p.nr ∧ p.storeInit[0]? = some [(13, 13)]) ∧
      Memory.wf [(13, 13)] = true ∧ (1 < p.nr ∧ p.storeInit[1]? = none) ∧ ∀ m ∈ p.storeInit, Memory.within p m = true :=
  ⟨⟨_, rfl⟩, by decide, by decide, by decide, by decide⟩

/-- `ResetCycleRestoresTheBlock`: a reset in the middle of a transfer, with a write of the request in the same cycle. -/
theorem witness_reset_cycle :
    let s :=
      { vector .access .write 0 13 true [true, false] true 45 false with
        inputs := [{ rst := true, acts := [.setRequest (some 0) none none none], samples := 2, render := true }] }
    s.nextInput.rst = true ∧ (∃ s1, hostActs s.nextInput.acts s.takeInput = .next s1) ∧
      s.responders[1]? = some { waitCnt := .num 0, xferN := 0, store := [] } :=
  ⟨rfl, ⟨_, rfl⟩, rfl⟩

/-- The command statements in phase `IDLE`: `IdleCommandWritesNothing`, `ReadCommandEntersSetup`,
`WriteCommandEntersSetup`, and each clause of `IllFormedOperandsAreRefused` at the first value it names. -/
theorem witness_commands :
    let s := vector .idle .idle 0 13 true [false, false] false 45 false
    s.ctl.phase = .idle ∧ 1 < s.params.nr ∧ 0xffff < 2 ^ s.params.aw ∧ 0xffffffff < 2 ^ s.params.dw ∧
      (Instr.read 2 0 0).command ≠ .idle ∧ s.params.nr ≤ 2 ∧ 2 ^ s.params.aw ≤ 0x10000 ∧
      2 ^ s.params.dw ≤ 0x100000000 := by decide

/-- The phase statements: `SetupLastsOneCycle`, `AccessHoldsWhileNotReady`, `AccessEndsOnReady`. -/
theorem witness_phases :
    (vector .setup .write 0 0 true [true, false] false 5 true).ctl.phase = .setup ∧
      (vector .access .write 0 0 true [true, false] true 5 false).ctl.phase = .access ∧
      (vector .access .write 0 0 true [true, false] true 5 false).bundle.ready = false ∧
      (vector .access .read 1 3 false [false, true] true 5 true).bundle.ready = true := by decide

/-- `PhaseFollowsTheTransitionTable`, `AdvanceLeavesTheRestUnchanged` in each phase. -/
theorem witness_advance :
    (∃ t, exec (.write 0 0 0xffffffff) (vector .idle .idle 1 0xffff false [false, false] false 45 false) = .next t) ∧
      (∃ t, exec (.read 1 3 0) (vector .setup .write 0 0 true [true, false] false 5 true) = .next t) ∧
      ∃ t, exec (.idle 0 0 0) (vector .access .read 1 3 false [false, true] true 5 true) = .next t :=
  ⟨⟨_, rfl⟩, ⟨_, rfl⟩, ⟨_, rfl⟩⟩

/-- `FailingActsHaveNoEffect`: a good write, then one that fails, at the first id that names no responder. -/
theorem witness_failing_act :
    let s := { State.reset with
      inputs := [{ acts := [.setRequest none none (some 7) none, .setRequest (some 1) (some 2) none none, .present 0] }] }
    let u := { s.takeInput with request := { s.request with address := 7 } }
    s.nextInput.acts =
        [.setRequest none none (some 7) none] ++ .setRequest (some 1) (some 2) none none :: [.present 0] ∧
      hostActs [.setRequest none none (some 7) none] s.takeInput = .next u ∧
      hostAct u (.setRequest (some 1) (some 2) none none) = .fault (.configurationError (.responderId 2) u) :=
  ⟨rfl, rfl, rfl⟩

/-- `TraceFormatErrorIsReturnedAgain`, `RenderWritesNothing`: a log with an unsupported value, and a cycle that renders. -/
theorem witness_trace_format_error :
    let s := { State.reset with
      recorder := { count := 1, logs := [⟨.field .address, [.unsupported "text"]⟩] }, inputs := [{ render := true }] }
    s.recorder.render s.params.wave = .error (.field .address, "text") ∧ s.nextInput.render = true ∧
      ∃ t, step s = .next t :=
  ⟨by decide, rfl, ⟨_, rfl⟩⟩

/-- `RequestIsNotReadDuringATransfer`. -/
theorem witness_busy :
    (vector .setup .write 0 0 true [true, false] false 5 true).ctl.phase ≠ .idle ∧
      (vector .setup .write 0 0 true [true, false] false 5 true).nextInput.acts = [] := by decide

/-- `ReturnPathOrsTheSelectedOutputs`: a selected responder that drives. -/
theorem witness_selected_output :
    [false, true][1]? = some true ∧ [Drive.quiet, ⟨true, 0x11, true⟩][1]? = some ⟨true, 0x11, true⟩ ∧
      Nat.testBit 0x11 4 = true := by decide

/-- `NothingSelectedDrivesZeros`, with values left on the return path. -/
theorem witness_nothing_selected :
    let s := vector .idle .idle 1 3 false [false, false] false 5 true
    s.ctl.phase = .idle ∧ s.bundle.select = List.replicate s.params.nr false ∧ s.bundle.enable = false := by decide

/-- `TwoSelectLinesAreRefused`. -/
theorem witness_two_lines :
    2 ≤ (vector .access .write 0 0 true [true, true] true 5 false).bundle.select.count true := by decide

/-- Each clause of `ResponderFollowsItsRules`. -/
theorem witness_responder :
    (port true false false 9).enable = false ∧ (responder (.num 1) 1 0).waitCnt = .num (0 + 1) ∧
      (responder .never 3 9).waitCnt = .never ∧ (port true true true 9).writeEnable = true ∧
      (responder (.num 0) 1 9).waitCnt = .num 0 ∧ (port true true false 9).writeEnable = false ∧
      (port true true false 9).sel = true ∧ (port false true true 77).sel = false := by decide

/-- A session whose WRITE is in its last cycle, and one whose READ is. -/
def completing (write : Bool) : State :=
  { vector .setup (if write then .write else .read) 0 4 write [true, false] false 9 false with
    responders := [responder (.num 0) 1 7, responder (.num 0) 0 0] }

/-- The statements about one step of a state that meets the invariant: `StoresChangeOnlyInACompletingWrite`,
`ReadDataOnlyInTheCompletingCycle`, `SelectLinesFollowThePhase`, `OnlyTheHostCanStopASession`,
`EveryCycleKeepsTheInvariant`, `ParametersNeverChange`, `LogsOnlyGrow`; the step is the completing cycle. -/
theorem witness_completing_write :
    (completing true).Inv ∧ (∃ t, step (completing true) = .next t ∧ t.ctl.phase = .access ∧ t.bundle.ready = true ∧
      t.bundle.writeEnable = true) ∧
      ∃ s1, hostActs (completing true).nextInput.acts (completing true).takeInput = .next s1 :=
  ⟨inv_of_quietInv (by decide), ⟨_, rfl, rfl, rfl, rfl⟩, ⟨_, rfl⟩⟩

/-- The same in the completing cycle of a READ, which returns the word. -/
theorem witness_completing_read :
    (completing false).Inv ∧ ∃ t, step (completing false) = .next t ∧ t.bundle.ready = true ∧ t.bundle.readData = 7 :=
  ⟨inv_of_quietInv (by decide), ⟨_, rfl, rfl, rfl⟩⟩

/-- The host leaves a transfer alone in each cycle of `thenIdle`. -/
theorem thenIdle_leaves : ∀ c ∈ thenIdle, c.leavesTransfer := by
  unfold CycleInput.leavesTransfer
  decide

/-- `TransferTakesItsCourse` with no wait cycle, a WRITE that the host returns to Idle. -/
theorem witness_transfer_no_wait :
    let s := atRest 0 (writeTo 0) thenIdle
    s.Inv ∧ s.ctl.phase = .idle ∧ s.request.command ≠ .idle ∧ s.hostWaits ∧ s.nextInput.acts = [] ∧
      (∃ r, s.responders[s.request.responderId]? = some r ∧ s.params.draw s.request.responderId r.xferN = .num 0) :=
  ⟨inv_of_quietInv (by decide), by decide, by decide, thenIdle_leaves, by decide, ⟨_, rfl, rfl⟩⟩

/-- `TransferTakesItsCourse` with two wait cycles, a READ of the last address. -/
theorem witness_transfer_two_waits :
    let s := atRest 1 readLast thenIdle
    s.Inv ∧ s.ctl.phase = .idle ∧ s.request.command ≠ .idle ∧ s.hostWaits ∧ s.nextInput.acts = [] ∧
      (∃ r, s.responders[s.request.responderId]? = some r ∧ s.params.draw s.request.responderId r.xferN = .num 2) :=
  ⟨inv_of_quietInv (by decide), by decide, by decide, thenIdle_leaves, by decide, ⟨_, rfl, rfl⟩⟩

/-- `StalledTransferNeverEnds`. -/
theorem witness_stall :
    let s := atRest 0 (writeTo 1) thenIdle
    s.Inv ∧ s.ctl.phase = .idle ∧ s.request.command ≠ .idle ∧ s.hostWaits ∧ s.nextInput.acts = [] ∧
      (∃ r, s.responders[s.request.responderId]? = some r ∧ s.params.draw s.request.responderId r.xferN = .never) :=
  ⟨inv_of_quietInv (by decide), by decide, by decide, thenIdle_leaves, by decide, ⟨_, rfl, rfl⟩⟩

/-- `LeftoverCommandIsRepeated`. -/
theorem witness_leftover :
    let s := atRest 1 (writeTo 0) [{ samples := 2 }]
    s.Inv ∧ s.ctl.phase = .idle ∧ s.request.command ≠ .idle ∧ (∀ c ∈ s.inputs, c.rst = false ∧ c.acts = []) ∧
      (∃ r, s.responders[s.request.responderId]? = some r ∧ s.params.draw s.request.responderId r.xferN = .num 2) :=
  ⟨inv_of_quietInv (by decide), by decide, by decide, by decide, ⟨_, rfl, rfl⟩⟩

/-- `IdleCycleKeepsTheBus`. -/
theorem witness_idle_cycle :
    let s := atRest 0 idleRequest []
    s.Inv ∧ s.ctl.phase = .idle ∧ s.request.command = .idle ∧ s.nextInput.acts = [] ∧ s.nextInput.rst = false :=
  ⟨inv_of_quietInv (by decide), by decide, by decide, by decide, by decide⟩

/-- `EveryResponderIsWaitedFor`: one wait cycle, then a word with `error` up. -/
theorem witness_any_responder :
    let s := atRest 0 readLast []
    bundleOk s.params.nr s.ctl s.bundle = true ∧ s.ctl.phase = .idle ∧ s.request.command ≠ .idle ∧
      s.request.toInstr.wf s.params = true ∧
      (∀ ds ∈ [[Drive.quiet, ⟨true, 3, false⟩]], ∀ d, ds[s.request.responderId]? = some d → d.ready = false) ∧
      [(⟨true, 0xffffffff, true⟩ : Drive)][s.request.responderId]? = some ⟨true, 0xffffffff, true⟩ := by
  refine ⟨by decide, by decide, by decide, by decide, ?_, by decide⟩
  intro ds hds d hd
  simp only [List.mem_singleton] at hds
  subst hds
  cases hd
  rfl

/-- `SampleLogsEveryField`, `WaveHasOneCharacterPerSample`, the first clause of `RenderRefusesUnsupportedValues`. -/
theorem witness_recorder :
    State.reset.recorder.Typed 2 ∧ State.reset.recorder.logs[10]? = some ⟨.field .strobe, []⟩ ∧
      ∀ l ∈ State.reset.recorder.logs, l.values = [] :=
  ⟨⟨by decide, by decide, by decide⟩, by decide, by decide⟩

/-- The second clause of `RenderRefusesUnsupportedValues`, with the error it names. -/
theorem witness_unsupported :
    Recorder.render {} { count := 2, logs := [⟨.clock, [.bit false, .bit true]⟩,
      ⟨.field .address, [.word 0, .unsupported "text"]⟩] } = .error (.field .address, "text") := by decide

/-- `TrackedNamesInOrder` at the last line of two, and `ClockWaveAlternates` at its last sample. -/
theorem witness_tracked : 1 < 2 ∧ (trackNames 2)[4]? = some (.field (.select 1)) ∧ 5 < 6 := by decide

/-- `ClockWaveAlternates`, `LevelWaveCharacters`, `ValueWaveAndItsData`: logs with a first value, a repeat and a change. -/
theorem witness_logs :
    let level : Log := ⟨.field .enable, [.bit true, .bit true, .bit false]⟩
    let value : Log := ⟨.field .strobe, [.word 1, .word 1, .word 0]⟩
    trackKind level.name = .level ∧ trackKind value.name = .value ∧ trackKind .clock = .clock ∧
      ∀ l ∈ [level, value],
        l.numbers[0]? = some 1 ∧ l.numbers[0 + 1]? = some 1 ∧ l.numbers[1 + 1]? = some 0 := by decide

/-- Each clause of `HostMayWriteOnlyStrobe`, `strobe` at its largest value. -/
theorem witness_host_writes :
    BundleField.ready ≠ .strobe ∧ 15 < 2 ^ State.reset.params.strbW ∧
      ({ State.reset with inputs := [{ acts := [.writeBundle .enable 1, .present 0] }] } : State).nextInput.acts =
        .writeBundle .enable 1 :: [.present 0] := by decide

/-- Each clause of `StepRunsTheDecodedRequest`. -/
theorem witness_decoded_request :
    decode State.reset.params 0x168006e = .ok (.write 1 13 45) ∧
      decode State.reset.params (0x168006e % 2 ^ 51) = .ok (.write 1 13 45) ∧ State.reset.inputs = [] := by decide

end Sys2Proof.Tests
end

section
/-! PROOFS. The statements of 00_scope.md: the derived widths (R6), the constant parameters (R5), and the cycle of a
session whose host only presents a word, or does nothing, and samples once (R11). -/
namespace Sys2Proof

/-! ### Derived widths -/

/-- `clog2` and powers of two form a Galois connection, so `clog2 n` is the least exponent that fits
(00_scope.md R6). -/
theorem clog2_le_iff {n k : Nat} : clog2 n ≤ k ↔ n ≤ 2 ^ k := by
  unfold clog2
  split
  · have := Nat.two_pow_pos k
    omega
  · have := Nat.log2_lt (n := n - 1) (k := k) (by omega)
    omega

/-- `STRB_W` is the least number of bytes that holds `DW` bits (00_scope.md R6). -/
theorem Params.strbW_le_iff {p : Params} {m : Nat} : p.strbW ≤ m ↔ p.dw ≤ 8 * m := by
  unfold Params.strbW
  omega

/-- Settles O7: the least exponent and the least multiple, each from its Galois connection. -/
theorem derivedWidthsAreTheLeastThatFit : Obligations.DerivedWidthsAreTheLeastThatFit :=
  ⟨fun _ _ => ⟨clog2_le_iff.mp le_rfl, fun _ => clog2_le_iff.mpr⟩,
    fun _ => ⟨rfl, Params.strbW_le_iff.mp le_rfl, fun _ => Params.strbW_le_iff.mpr, rfl⟩⟩

end Sys2Proof

namespace Sys2Proof.Machine

/-! ### The parameters are constant -/

/-- A cycle that answers a next state keeps the parameters of the session (00_scope.md R5). -/
theorem step_params {s t : State} (h : step s = .next t) : t.params = s.params := by
  obtain ⟨s1, hacts, hblock⟩ := step_cases h
  have hhost : s1.params = s.params := (hostActs_frame hacts).1
  rcases hblock with ⟨-, rfl⟩ | ⟨-, s2, hexec, -, rfl⟩
  · simpa using hhost
  · have hadvance : s2.params = s1.params := (exec_frame hexec).1
    simpa using hadvance.trans hhost

/-- Settles O54, from what each part of a cycle leaves unchanged. -/
theorem parametersNeverChange : Obligations.ParametersNeverChange := fun _ _ => step_params

/-! ### The request that a step runs -/

/-- Steps 2 to 4 of a cycle without reset in which the host samples once, at the end (00_scope.md R11). -/
def plainCycle (s : State) : Out :=
  andThen (exec s.request.toInstr s) fun t => andThen (respondersTurn t) fun u => .next (sampleTimes 1 u)

/-- A cycle with nothing planned but the host's acts is these acts and then a plain cycle. -/
theorem cycle_acts (acts : List HostAct) (s : State) :
    cycle { acts := acts } s = andThen (hostActs acts s) plainCycle := by
  unfold cycle
  congr 1
  funext u
  exact andThen_assoc _ _ _

/-- A word the decoder accepts becomes the request (30_encoding.md R71). -/
theorem presentWord_of_decode {s : State} {w : Nat} {i : Instr} (h : decode s.params w = .ok i) :
    presentWord w s = .next (s.setRequest (requestOf i)) := by
  simp [presentWord, h]

/-- Step 1 with one presented word that the decoder accepts. -/
theorem hostActs_present {s : State} {w : Nat} {i : Instr} (h : decode s.params w = .ok i) :
    hostActs [.present w] s = .next (s.setRequest (requestOf i)) := by
  simp [hostActs, hostAct, presentWord_of_decode h]

/-- With a presented word next on the host's plan, a step is a plain cycle with the word's request. -/
theorem step_of_present {s : State} {w : Nat} {rest : List CycleInput} {i : Instr}
    (hin : s.inputs = { acts := [.present w] } :: rest) (hdec : decode s.params w = .ok i) :
    step s = plainCycle ((s.setInputs rest).setRequest (requestOf i)) := by
  have hnext : s.nextInput = { acts := [.present w] } := by simp [State.nextInput, hin]
  have htake : s.takeInput = s.setInputs rest := by simp [State.takeInput, hin]
  rw [step, hnext, htake, cycle_acts, hostActs_present (by simpa using hdec), andThen_next]

/-- With nothing planned a step is a plain cycle with the request in place. -/
theorem step_of_no_inputs {s : State} (hin : s.inputs = []) : step s = plainCycle s := by
  have hnext : s.nextInput = { acts := [] } := by simp [State.nextInput, hin]
  have htake : s.takeInput = s := by
    unfold State.takeInput State.setInputs
    rw [hin, List.tail_nil, ← hin]
  rw [step, hnext, htake, cycle_acts, hostActs, andThen_next]

/-- A plain cycle with an instruction's request in place runs that instruction. -/
theorem plainCycle_requestOf (s : State) (i : Instr) :
    plainCycle (s.setRequest (requestOf i)) =
      andThen (exec i (s.setRequest (requestOf i)))
        fun t => andThen (respondersTurn t) fun u => .next (sampleTimes 1 u) := by
  simp only [plainCycle, setRequest_request, toInstr_requestOf]

/-- Settles O55: the second clause is the first at `presenting`, which puts the word in front of the plan. -/
theorem stepRunsTheDecodedRequest : Obligations.StepRunsTheDecodedRequest := by
  refine ⟨fun s w rest i hin hdec => ?_, fun s nbits w i hdec => ?_, fun s => step_of_no_inputs⟩
  · exact (step_of_present hin hdec).trans (plainCycle_requestOf _ i)
  · exact (step_of_present (s := s.withFetchWord nbits w) rfl hdec).trans (plainCycle_requestOf _ i)

end Sys2Proof.Machine
end

section
/-! PROOFS. The statements of 10_state.md: the transition table (R26), the lines in each phase (R22), the reset state
(R32), and the invariant that every cycle keeps. -/
namespace Sys2Proof

/-- The legal parameter values of 00_scope.md R7, as bounds. -/
theorem Params.legal_iff {p : Params} :
    p.legal = true ↔ 1 ≤ p.dw ∧ p.dw ≤ p.dwMax ∧ 1 ≤ p.aw ∧ 1 ≤ p.nr := by
  simp [Params.legal, and_assoc]

/-- The tests of 44_construction.md R192 on a request, as bounds. -/
theorem Instr.wf_iff {p : Params} {i : Instr} :
    i.wf p = true ↔ i.responderId < p.idBound i.command ∧ i.address < 2 ^ p.aw ∧ i.data < 2 ^ p.dw := by
  simp [Instr.wf, Instr.idOk, Instr.addressOk, Instr.dataOk, and_assoc]

end Sys2Proof

namespace Sys2Proof.Machine

/-! ### The controller's registers -/

@[simp] theorem acceptTransfer_ctl (c : Command) (i a d : Nat) (s : State) :
    (acceptTransfer c i a d s).ctl = { phase := .setup, actCmd := c, actId := i } := rfl
@[simp] theorem setupToAccess_ctl (s : State) : (setupToAccess s).ctl = { s.ctl with phase := .access } := rfl
@[simp] theorem accessToIdle_ctl (s : State) :
    (accessToIdle s).ctl = { s.ctl with phase := .idle, actCmd := .idle } := rfl

/-- Settles O23, by the cases of `advance`. -/
theorem phaseFollowsTheTransitionTable : Obligations.PhaseFollowsTheTransitionTable := by
  intro s t i h
  rcases exec_cases h with ⟨hp, hi, rfl⟩ | ⟨hp, hi, -, rfl⟩ | ⟨hp, rfl⟩ | ⟨hp, hr, rfl⟩ | ⟨hp, hr, rfl⟩
  · simp [hp, hi]
  · simp [hp, hi]
  · simp [hp]
  · simp [hp, hr]
  · simp [hp, hr]

/-! ### The lines and the phase -/

/-- A reset cycle lowers every line and goes to phase `IDLE` (70_reset_and_hazards.md R221). -/
theorem bundleOk_zeroBundle (nr : Nat) : bundleOk nr newController (zeroBundle nr) = true := by
  simp [bundleOk, newController, zeroBundle]

/-- Every cycle ends with lines that agree with the phase, wherever it began: a reset cycle puts both in place, and
any other passes the check of step 3. -/
theorem step_bundleOk {s t : State} (h : step s = .next t) : bundleOk t.params.nr t.ctl t.bundle = true := by
  obtain ⟨s1, -, ⟨-, rfl⟩ | ⟨-, s2, -, hok, rfl⟩⟩ := step_cases h
  · exact bundleOk_zeroBundle _
  · exact hok

/-- Settles O30, from the agreement that every cycle ends with. -/
theorem selectLinesFollowThePhase : Obligations.SelectLinesFollowThePhase := by
  intro s t h
  obtain ⟨hidle, hbusy⟩ := bundleOk_iff.mp (step_bundleOk h)
  refine ⟨fun hp => ?_, fun hp => ?_, fun hp => ?_, fun hp => ?_⟩
  · obtain ⟨hsel, hen⟩ := hidle hp
    exact ⟨hen, sel_of_noSelect hsel⟩
  · obtain ⟨hid, hsel, -⟩ := hbusy hp
    refine ⟨hid, fun k => ?_⟩
    rw [sel_of_oneHot hsel, decide_eq_true_eq]
    exact ⟨And.right, fun hk => ⟨hk ▸ hid, hk⟩⟩
  · obtain ⟨-, -, hen⟩ := hbusy (by simp [hp])
    simpa [hp] using hen
  · obtain ⟨-, -, hen⟩ := hbusy (by simp [hp])
    simpa [hp] using hen

/-- A well-formed READ or WRITE names a responder (30_encoding.md R73). -/
theorem responderId_lt_of_wf {p : Params} {i : Instr} (h : i.wf p = true) (hc : i.command ≠ .idle) :
    i.responderId < p.nr := by
  obtain ⟨hid, -, -⟩ := Instr.wf_iff.mp h
  cases i with
  | idle r a d => exact absurd rfl hc
  | read r a d => exact hid
  | write r a d => exact hid

theorem acceptTransfer_bundleOk {s : State} (hs : bundleOk s.params.nr s.ctl s.bundle = true)
    (hp : s.ctl.phase = .idle) (c : Command) {i : Nat} (hi : i < s.params.nr) (a d : Nat) :
    bundleOk s.params.nr (acceptTransfer c i a d s).ctl (acceptTransfer c i a d s).bundle = true := by
  obtain ⟨-, hen⟩ := (bundleOk_iff.mp hs).1 hp
  simp [bundleOk, acceptTransfer, hi, hen]

theorem setupToAccess_bundleOk {s : State} (hs : bundleOk s.params.nr s.ctl s.bundle = true)
    (hp : s.ctl.phase = .setup) : bundleOk s.params.nr (setupToAccess s).ctl (setupToAccess s).bundle = true := by
  obtain ⟨hid, hsel, -⟩ := (bundleOk_iff.mp hs).2 (by simp [hp])
  simp [bundleOk, setupToAccess, hid, hsel]

theorem accessToIdle_bundleOk {s : State} (hs : bundleOk s.params.nr s.ctl s.bundle = true)
    (hp : s.ctl.phase = .access) : bundleOk s.params.nr (accessToIdle s).ctl (accessToIdle s).bundle = true := by
  obtain ⟨-, hsel, -⟩ := (bundleOk_iff.mp hs).2 (by simp [hp])
  simp [bundleOk, accessToIdle, hsel, set_oneHot]

/-! ### A block at rest -/

theorem zeroBundle_fits (p : Params) : (zeroBundle p.nr).Fits p := by
  constructor <;> simp [zeroBundle]

/-- A session whose block is as construction or reset leaves it meets the invariant, when what reset does not touch
does. -/
theorem inv_of_newBlock {s : State} (hparams : s.params.legal = true) (hbundle : s.bundle = zeroBundle s.params.nr)
    (hctl : s.ctl = newController) (hrequest : s.request.toInstr.wf s.params = true)
    (hlength : s.responders.length = s.params.nr)
    (hstores : ∀ r ∈ s.responders, Memory.wf r.store = true ∧ Memory.within s.params r.store = true)
    (hwaits : ∀ r ∈ s.responders, r.waitCnt = .num 0) (hrecorder : s.recorder.Typed s.params.nr) : s.Inv where
  params := hparams
  bundle := hbundle ▸ zeroBundle_fits s.params
  request := hrequest
  lines := by rw [hbundle, hctl]; exact bundleOk_zeroBundle _
  actId := by
    obtain ⟨-, -, -, hnr⟩ := Params.legal_iff.mp hparams
    rw [hctl]
    exact hnr
  actCmd := by simp [hctl, newController]
  direction := by simp [hctl, newController]
  responders := hlength
  stores := hstores
  waits := fun _ r hr _ => hwaits r (List.mem_of_getElem? hr)
  ready := by simp [hbundle, zeroBundle]
  error := by simp [hbundle, zeroBundle]
  recorder := hrecorder

/-- A new recorder's logs are empty (44_construction.md R196). -/
theorem newRecorder_typed (nr : Nat) : (newRecorder nr).Typed nr := by
  constructor <;> simp [newRecorder, Function.comp_def]

/-- The store of a new responder is canonical and holds words of the space. -/
theorem newResponder_store {p : Params} (h : ∀ m ∈ p.storeInit, Memory.within p m = true) (k : Nat) :
    Memory.wf (newResponder p k).store = true ∧ Memory.within p (newResponder p k).store = true := by
  refine ⟨Memory.wf_ofList _, Memory.within_ofList _ ?_⟩
  cases hk : p.storeInit[k]? with
  | none => rfl
  | some m => exact h m (List.mem_of_getElem? hk)

/-- Construction is an accepted `make_transfer` with new parts around it (44_construction.md R190, R196). -/
theorem construct_ok {p : Params} {address data responderId : Nat} {inputs : List CycleInput} {s : State}
    (h : construct p address data responderId inputs = .ok s) :
    ∃ b q, makeTransfer p.dwMax address data p.aw p.dw p.nr responderId = .ok (b, q) ∧
      s = { params := p, bundle := b, request := q, ctl := newController
            responders := (List.range p.nr).map (newResponder p)
            recorder := newRecorder p.nr, inputs := inputs, lastRender := none } := by
  unfold construct at h
  split at h
  · cases h
  · cases h
    exact ⟨_, _, ‹_›, rfl⟩

/-- An accepted `make_transfer`'s request is well formed. -/
theorem makeTransfer_wf {mx a d r : Nat} {p : Params} {b : Bundle} {q : Request}
    (h : makeTransfer mx a d p.aw p.dw p.nr r = .ok (b, q)) : q.toInstr.wf p = true := by
  obtain ⟨-, rfl, -, -, -, -, hr, ha, hd⟩ := makeTransfer_ok h
  have hid : r < 2 ^ p.idW := Nat.lt_of_lt_of_le hr (nr_le_two_pow_idW p)
  exact Instr.wf_iff.mpr ⟨hid, ha, hd⟩

/-- A new session of initial words of its own space meets the invariant. -/
theorem construct_inv {p : Params} {address data responderId : Nat} {inputs : List CycleInput} {s : State}
    (hinit : ∀ m ∈ p.storeInit, Memory.within p m = true)
    (h : construct p address data responderId inputs = .ok s) : s.Inv := by
  obtain ⟨b, q, hq, rfl⟩ := construct_ok h
  obtain ⟨rfl, -, hdw, hmax, haw, hnr, -⟩ := makeTransfer_ok hq
  refine inv_of_newBlock (Params.legal_iff.mpr ⟨hdw, hmax, haw, hnr⟩) rfl rfl (makeTransfer_wf hq) (by simp) ?_ ?_
    (newRecorder_typed _)
  · intro r hr
    obtain ⟨k, -, rfl⟩ := List.mem_map.mp hr
    exact newResponder_store hinit k
  · intro r hr
    obtain ⟨k, -, rfl⟩ := List.mem_map.mp hr
    rfl

/-- Settles O13: both sides are closed, and construction evaluates to the reset state. -/
theorem resetIsAConstructedSession : Obligations.ResetIsAConstructedSession := by
  unfold Obligations.ResetIsAConstructedSession
  rfl

/-- Settles O12: the reset state is a constructed session without initial words. -/
theorem resetMeetsTheInvariant : Obligations.ResetMeetsTheInvariant :=
  construct_inv (by simp [Config.resetParams]) resetIsAConstructedSession

/-- A reset cycle keeps the invariant (70_reset_and_hazards.md R221). -/
theorem resetCycle_inv {s : State} (h : s.Inv) : (resetCycle s).Inv := by
  refine inv_of_newBlock h.params rfl rfl h.request (by simp [resetCycle, h.responders]) ?_ ?_ h.recorder
  · intro r hr
    obtain ⟨r', hr', rfl⟩ := List.mem_map.mp hr
    exact h.stores r' hr'
  · intro r hr
    obtain ⟨r', -, rfl⟩ := List.mem_map.mp hr
    rfl

/-! ### The host -/

/-- Of the recorder the invariant asks only that its logs are typed. -/
theorem setRecorder_inv {s : State} (h : s.Inv) {r : Recorder} (hr : r.Typed s.params.nr) : (s.setRecorder r).Inv :=
  { h with recorder := hr }

/-- The invariant does not speak of the host's plan. -/
theorem setInputs_inv {s : State} (h : s.Inv) (cs : List CycleInput) : (s.setInputs cs).Inv := { h with }

/-- The invariant does not speak of what `render` returned. -/
theorem setLastRender_inv {s : State} (h : s.Inv) (r : Option RenderReply) : (s.setLastRender r).Inv := { h with }

/-- The host may present any well-formed request (44_construction.md R192). -/
theorem setRequest_inv {s : State} (h : s.Inv) {q : Request} (hq : q.toInstr.wf s.params = true) :
    (s.setRequest q).Inv :=
  { h with request := hq }

/-- The host may write `strobe` (70_reset_and_hazards.md R230). -/
theorem setStrobe_inv {s : State} (h : s.Inv) {v : Nat} (hv : v < 2 ^ s.params.strbW) :
    (s.setBundle { s.bundle with strobe := v }).Inv :=
  { h with bundle := { h.bundle with strobe := hv } }

/-- The host's acts keep the invariant. -/
theorem hostActs_inv {acts : List HostAct} {s t : State} (h : s.Inv) (ha : hostActs acts s = .next t) : t.Inv := by
  induction acts generalizing s with
  | nil =>
    cases ha
    exact h
  | cons a acts ih =>
    obtain ⟨u, hu, ha⟩ := andThen_eq_next.mp ha
    rcases hostAct_cases hu with ⟨q, hq, rfl⟩ | ⟨v, hv, rfl⟩
    · exact ih (setRequest_inv h hq) ha
    · exact ih (setStrobe_inv h hv) ha

/-- Samples keep the invariant (43_waveform_sampler.md R160). -/
theorem sampleTimes_inv {s : State} (h : s.Inv) (n : Nat) : (sampleTimes n s).Inv :=
  setRecorder_inv h (sampleTimes_typed h.recorder _ n)

/-- The end of a cycle keeps the invariant: it samples and may render. -/
theorem finishCycle_inv {s : State} (h : s.Inv) (c : CycleInput) : (finishCycle c s).Inv :=
  setLastRender_inv (sampleTimes_inv h _) _

/-! ### `advance`

Between `advance` and the responders' turn the bundle still shows what the responders drove in the cycle before, so
`ready` may be up in phase `IDLE` (40_bus_controller_fsm.md R108): what `advance` keeps is the invariant of the state
with those three fields low, which the turn writes anew (41_signal_bundle_mux.md R133). -/

/-- The state with the fields that the return path writes all low. -/
def State.undriven (s : State) : State := s.setBundle (s.bundle.drive Drive.quiet)

@[simp] theorem undriven_ctl (s : State) : s.undriven.ctl = s.ctl := rfl
@[simp] theorem undriven_bundle (s : State) : s.undriven.bundle = s.bundle.drive Drive.quiet := rfl

/-- With nothing driven the three fields are as the invariant allows in every phase. -/
theorem undriven_inv {s : State} (h : s.Inv) : s.undriven.Inv :=
  { h with
    bundle := { h.bundle with readData := Nat.two_pow_pos _ }
    ready := fun hr => Bool.noConfusion hr
    error := rfl }

/-- What an accepted command puts on `write_data` fits its width. -/
theorem acceptedData_fits {i : Instr} {s : State} (hs : s.bundle.writeData < 2 ^ s.params.dw)
    (hi : i.wf s.params = true) : acceptedData i s < 2 ^ s.params.dw := by
  obtain ⟨-, -, hd⟩ := Instr.wf_iff.mp hi
  unfold acceptedData
  split
  · exact hd
  · exact hs

/-- An accepted command keeps the invariant: no responder has wait cycles left from the transfer before. -/
theorem acceptTransfer_inv {s : State} (h : s.Inv) (hp : s.ctl.phase = .idle) {c : Command} (hc : c ≠ .idle)
    {i a d : Nat} (hi : i < s.params.nr) (ha : a < 2 ^ s.params.aw) (hd : d < 2 ^ s.params.dw) :
    (acceptTransfer c i a d s).undriven.Inv :=
  { undriven_inv h with
    bundle := { (undriven_inv h).bundle with address := ha, select := length_oneHot _ _, writeData := hd }
    lines := acceptTransfer_bundleOk h.lines hp c hi a d
    actId := hi
    actCmd := iff_of_false hc (by simp)
    direction := fun _ => by simp [acceptTransfer]
    waits := fun k r hr _ => h.waits k r hr (.inl hp)
    ready := fun hr => Bool.noConfusion hr }

/-- `SETUP → ACCESS` keeps the invariant. -/
theorem setupToAccess_inv {s : State} (h : s.Inv) (hp : s.ctl.phase = .setup) : (setupToAccess s).undriven.Inv := by
  have hbusy : s.ctl.phase ≠ .idle := by simp [hp]
  exact
    { undriven_inv h with
      bundle := { (undriven_inv h).bundle with }
      lines := setupToAccess_bundleOk (s := s) h.lines hp
      actCmd := iff_of_false (fun hc => hbusy (h.actCmd.mp hc)) (by simp)
      direction := fun _ => h.direction hbusy
      waits := fun k r hr hk => h.waits k r hr (.inr (hk.resolve_left (by simp)))
      ready := fun hr => Bool.noConfusion hr }

/-- `ACCESS → IDLE` keeps the invariant: `ready` was up, so the addressed responder has no wait cycles left. -/
theorem accessToIdle_inv {s : State} (h : s.Inv) (hr : s.bundle.ready = true) : (accessToIdle s).undriven.Inv := by
  obtain ⟨hp, hdone⟩ := h.ready hr
  exact
    { undriven_inv h with
      bundle := { (undriven_inv h).bundle with select := List.length_set.trans h.bundle.select }
      lines := accessToIdle_bundleOk h.lines hp
      actCmd := iff_of_true rfl rfl
      direction := fun hidle => absurd rfl hidle
      waits := fun k r hk _ => by
        by_cases hact : k = s.ctl.actId
        · exact hdone r (hact ▸ hk)
        · exact h.waits k r hk (.inr hact)
      ready := fun hr => Bool.noConfusion hr }

/-- `advance` keeps the invariant of the state with nothing driven. -/
theorem exec_inv {i : Instr} {s t : State} (h : s.Inv) (hx : exec i s = .next t) : t.undriven.Inv := by
  rcases exec_cases hx with ⟨-, -, rfl⟩ | ⟨hp, hi, hwf, rfl⟩ | ⟨hp, rfl⟩ | ⟨-, -, rfl⟩ | ⟨-, hr, rfl⟩
  · exact undriven_inv h
  · obtain ⟨-, ha, -⟩ := Instr.wf_iff.mp hwf
    exact acceptTransfer_inv h hp hi (responderId_lt_of_wf hwf hi) ha (acceptedData_fits h.bundle.writeData hwf)
  · exact setupToAccess_inv h hp
  · exact undriven_inv h
  · exact accessToIdle_inv h hr

/-! ### The responders' turn -/

section Respond
variable (p : Params) (k : Nat) (q : Port) (r : Responder)

/-- A responder never raises `error` (42_wait_state_responder.md R147). -/
theorem respond_error : (respond p k q r).2.error = false := by
  rcases respond_cases p k q r with h | h | h | h | h <;>
    simp [h, respondIgnore, respondSetup, respondWait, respondWrite, respondRead, Drive.quiet]

/-- A responder returns zeros or the word addressed (42_wait_state_responder.md R142 to R146). -/
theorem respond_readData :
    (respond p k q r).2.readData = 0 ∨ (respond p k q r).2.readData = Memory.read r.store q.address := by
  rcases respond_cases p k q r with h | h | h | h | h <;>
    simp [h, respondIgnore, respondSetup, respondWait, respondWrite, respondRead, Drive.quiet]

/-- A responder keeps its store or writes the word addressed (42_wait_state_responder.md R144). -/
theorem respond_store :
    (respond p k q r).1.store = r.store ∨
      (respond p k q r).1.store = Memory.write r.store q.address q.writeData := by
  rcases respond_cases p k q r with h | h | h | h | h <;>
    simp [h, respondIgnore, respondSetup, respondWait, respondWrite, respondRead]

/-- A responder that raises `ready` sees `enable` and has no wait cycles left (42_wait_state_responder.md R144,
R145). -/
theorem respond_ready (hr : (respond p k q r).2.ready = true) :
    q.enable = true ∧ (respond p k q r).1.waitCnt = .num 0 := by
  rcases respond_cases p k q r with ⟨-, h⟩ | ⟨-, -, h⟩ | ⟨-, -, -, h⟩ | ⟨-, hen, hw, -, h⟩ | ⟨-, hen, hw, -, h⟩ <;>
    rw [h] at hr ⊢
  · cases hr
  · cases hr
  · cases hr
  · exact ⟨hen, hw⟩
  · exact ⟨hen, hw⟩

end Respond

/-- What a responder of words of the space returns fits `DW` bits. -/
theorem respond_readData_fits {p : Params} {r : Responder} (h : Memory.within p r.store = true) (k : Nat) (q : Port) :
    (respond p k q r).2.readData < 2 ^ p.dw := by
  rcases respond_readData p k q r with hd | hd <;> rw [hd]
  · exact Nat.two_pow_pos _
  · exact Memory.read_fits h _

/-- A responder's store stays canonical and within the space. -/
theorem respond_store_keeps {p : Params} {r : Responder} {q : Port}
    (h : Memory.wf r.store = true ∧ Memory.within p r.store = true) (ha : q.address < 2 ^ p.aw)
    (hd : q.writeData < 2 ^ p.dw) (k : Nat) :
    Memory.wf (respond p k q r).1.store = true ∧ Memory.within p (respond p k q r).1.store = true := by
  obtain ⟨hwf, hin⟩ := h
  rcases respond_store p k q r with hs | hs <;> rw [hs]
  · exact ⟨hwf, hin⟩
  · exact ⟨Memory.wf_write hwf _ _, Memory.within_write hin ha hd⟩

/-- The outputs on the return path are those of the addressed responder. -/
theorem replyOf_eq {s : State} {r : Responder} (h : s.responders[s.ctl.actId]? = some r) :
    replyOf s = (respond s.params s.ctl.actId (s.bundle.port s.ctl.actId) r).2 := by
  simp [replyOf, h]

/-- The addressed responder after the responders' turn. -/
theorem respondAll_addressed {s : State} {r : Responder} (h : s.responders[s.ctl.actId]? = some r) :
    (respondAll s).responders[s.ctl.actId]? =
      some (respond s.params s.ctl.actId (s.bundle.port s.ctl.actId) r).1 := by
  rw [respondAll_responder, h, Option.map_some]

/-- The responders' turn in a transfer keeps the invariant. -/
theorem respondAll_inv_of_busy {s : State} (h : s.undriven.Inv) (hp : s.ctl.phase ≠ .idle) : (respondAll s).Inv := by
  have hlines : bundleOk s.params.nr s.ctl s.bundle = true := h.lines
  obtain ⟨hid, hsel, hen⟩ := (bundleOk_iff.mp hlines).2 hp
  obtain ⟨r, hr⟩ : ∃ r, s.responders[s.ctl.actId]? = some r :=
    ⟨_, List.getElem?_eq_getElem (Nat.lt_of_lt_of_eq hid h.responders.symm)⟩
  have hbundle := (respondAll_bundle hid hsel).trans (congrArg s.bundle.drive (replyOf_eq hr))
  exact
    { h with
      bundle := by
        rw [hbundle]
        have hin : Memory.within s.params r.store = true := (h.stores r (List.mem_of_getElem? hr)).2
        exact { h.bundle with readData := respond_readData_fits hin _ _ }
      responders := (length_respondAll s).trans h.responders
      stores := fun r' hr' => by
        obtain ⟨k, hk⟩ := List.mem_iff_getElem?.mp hr'
        rw [respondAll_responder] at hk
        obtain ⟨r0, hr0, rfl⟩ := Option.map_eq_some_iff.mp hk
        exact respond_store_keeps (h.stores r0 (List.mem_of_getElem? hr0)) h.bundle.address h.bundle.writeData k
      waits := fun k r' hr' hk => by
        have hother : k ≠ s.ctl.actId := hk.resolve_left hp
        exact h.waits k r' ((respondAll_other hsel hother).symm.trans hr') (.inr hother)
      ready := fun hready => by
        rw [hbundle] at hready
        obtain ⟨henable, hwait⟩ := respond_ready _ _ _ _ hready
        refine ⟨of_decide_eq_true (hen.symm.trans henable), fun r' hr' => ?_⟩
        rw [respondAll_ctl, respondAll_addressed hr] at hr'
        cases hr'
        exact hwait
      error := by
        rw [hbundle]
        exact respond_error _ _ _ _ }

/-- The responders' turn keeps the invariant, whatever they drove before. -/
theorem respondAll_inv {s : State} (h : s.undriven.Inv) : (respondAll s).Inv := by
  by_cases hp : s.ctl.phase = .idle
  · have hsel : s.bundle.select = noSelect s.params.nr := ((bundleOk_iff.mp h.lines).1 hp).1
    rw [respondAll_idle hsel]
    exact h
  · exact respondAll_inv_of_busy h hp

/-! ### Whole cycles -/

/-- Settles O57: the host's acts, `advance`, the responders' turn, samples and a reset each keep the invariant. -/
theorem everyCycleKeepsTheInvariant : Obligations.EveryCycleKeepsTheInvariant := by
  intro s t h hstep
  obtain ⟨s1, hacts, hblock⟩ := step_cases hstep
  have h1 : s1.Inv := hostActs_inv (setInputs_inv h _) hacts
  rcases hblock with ⟨-, rfl⟩ | ⟨-, s2, hexec, -, rfl⟩
  · exact finishCycle_inv (sampleTimes_inv (resetCycle_inv h1) _) _
  · have h2 : s2.undriven.Inv := exec_inv h1 hexec
    have hearly : (sampleTimes s.nextInput.earlySamples s2).undriven.Inv :=
      setRecorder_inv h2 (sampleTimes_typed h2.recorder _ _)
    exact finishCycle_inv (respondAll_inv hearly) _

end Sys2Proof.Machine
end

section
/-! PROOFS. The statements of 20_memory.md: which cycle changes a word of a store (R51, R52, R55), and which cycle puts
a word on `read_data` (R62). -/
namespace Sys2Proof.Machine

/-! ### One responder -/

section Respond
variable (p : Params) (k : Nat) (q : Port) (r : Responder)

/-- A responder that raises `ready` on a WRITE has replaced the whole word addressed; any other turn of it keeps its
words (20_memory.md R52, 42_wait_state_responder.md R144). -/
theorem respond_read_store (h : Memory.wf r.store = true) (a : Nat) :
    Memory.read (respond p k q r).1.store a =
      if (respond p k q r).2.ready = true ∧ q.writeEnable = true ∧ a = q.address then q.writeData
      else Memory.read r.store a := by
  rcases respond_cases p k q r with ⟨-, hc⟩ | ⟨-, -, hc⟩ | ⟨-, -, -, hc⟩ | ⟨-, -, -, hw, hc⟩ | ⟨-, -, -, hw, hc⟩ <;>
    rw [hc]
  · simp [respondIgnore, Drive.quiet]
  · simp [respondSetup, Drive.quiet]
  · simp [respondWait, Drive.quiet]
  · simp [respondWrite, hw, Memory.read_write h, eq_comm]
  · simp [respondRead, hw]

/-- A responder that raises `ready` on a READ returns the word addressed; in any other turn it returns 0
(42_wait_state_responder.md R145). -/
theorem respond_readData_eq :
    (respond p k q r).2.readData =
      if (respond p k q r).2.ready = true ∧ q.writeEnable = false
      then Memory.read (respond p k q r).1.store q.address else 0 := by
  rcases respond_cases p k q r with ⟨-, hc⟩ | ⟨-, -, hc⟩ | ⟨-, -, -, hc⟩ | ⟨-, -, -, hw, hc⟩ | ⟨-, -, -, hw, hc⟩ <;>
    rw [hc]
  · simp [respondIgnore, Drive.quiet]
  · simp [respondSetup, Drive.quiet]
  · simp [respondWait, Drive.quiet]
  · simp [respondWrite, hw]
  · simp [respondRead, hw]

end Respond

/-! ### Words of the state -/

/-- The words of a responder that exists are those of its store. -/
theorem memRead_of_responder {s : State} {k : Nat} {r : Responder} (h : s.responders[k]? = some r) (a : Nat) :
    s.memRead k a = Memory.read r.store a := by
  simp [State.memRead, h]

/-- What responder `k` holds decides what its words read as. -/
theorem memRead_congr {s t : State} {k : Nat} (h : t.responders[k]? = s.responders[k]?) (a : Nat) :
    t.memRead k a = s.memRead k a := by
  simp only [State.memRead, h]

/-- A reset cycle keeps every store (70_reset_and_hazards.md R221). -/
theorem resetCycle_memRead (s : State) (k a : Nat) : (resetCycle s).memRead k a = s.memRead k a := by
  unfold State.memRead resetCycle
  rw [List.getElem?_map]
  cases s.responders[k]? <;> rfl

/-! ### The responders' turn -/

@[simp] theorem respondAll_address (s : State) : (respondAll s).bundle.address = s.bundle.address := rfl
@[simp] theorem respondAll_writeEnable (s : State) : (respondAll s).bundle.writeEnable = s.bundle.writeEnable := rfl
@[simp] theorem respondAll_writeData (s : State) : (respondAll s).bundle.writeData = s.bundle.writeData := rfl

/-- The return path shows the addressed responder's outputs; without such a responder it shows zeros, as it does
between transfers (41_signal_bundle_mux.md R133, R134). -/
theorem respondAll_cases {s : State} (hok : bundleOk s.params.nr s.ctl s.bundle = true) :
    (respondAll s).bundle = s.bundle.drive Drive.quiet ∧ (∀ k : Nat, (respondAll s).responders[k]? = s.responders[k]?) ∨
    s.bundle.enable = decide (s.ctl.phase = .access) ∧ s.bundle.select = oneHot s.params.nr s.ctl.actId ∧
      ∃ r, s.responders[s.ctl.actId]? = some r ∧
        (respondAll s).bundle =
          s.bundle.drive (respond s.params s.ctl.actId (s.bundle.port s.ctl.actId) r).2 := by
  obtain ⟨hidle, hbusy⟩ := bundleOk_iff.mp hok
  by_cases hp : s.ctl.phase = .idle
  · obtain ⟨hsel, -⟩ := hidle hp
    rw [respondAll_idle hsel]
    exact .inl ⟨rfl, fun _ => rfl⟩
  · obtain ⟨hid, hsel, hen⟩ := hbusy hp
    rw [respondAll_bundle hid hsel]
    cases hr : s.responders[s.ctl.actId]? with
    | none =>
      refine .inl ⟨by simp [replyOf, hr], fun k => ?_⟩
      by_cases hk : k = s.ctl.actId
      · rw [respondAll_responder, hk, hr, Option.map_none]
      · exact respondAll_other hsel hk
    | some r => exact .inr ⟨hen, hsel, r, rfl, by rw [replyOf_eq hr]⟩

/-- `ready` is up at the end of a turn only in `ACCESS` (42_wait_state_responder.md R140). -/
theorem respondAll_ready {s : State} (hok : bundleOk s.params.nr s.ctl s.bundle = true)
    (hready : (respondAll s).bundle.ready = true) : s.ctl.phase = .access := by
  rcases respondAll_cases hok with ⟨hb, -⟩ | ⟨hen, -, r, -, hb⟩ <;> rw [hb] at hready
  · cases hready
  · obtain ⟨henable, -⟩ := respond_ready _ _ _ _ hready
    exact of_decide_eq_true (hen.symm.trans henable)

/-- A turn that completes a WRITE replaces the word addressed, and no turn changes any other word
(20_memory.md R51, R52, R55). -/
theorem respondAll_memRead {s : State} (hok : bundleOk s.params.nr s.ctl s.bundle = true)
    (hwf : ∀ r ∈ s.responders, Memory.wf r.store = true) (k a : Nat) :
    (respondAll s).memRead k a =
      if (respondAll s).bundle.ready = true ∧ s.bundle.writeEnable = true ∧ k = s.ctl.actId ∧ a = s.bundle.address
      then s.bundle.writeData else s.memRead k a := by
  rcases respondAll_cases hok with ⟨hb, hkeep⟩ | ⟨-, hsel, r, hr, hb⟩
  · simp [hb, Drive.quiet, memRead_congr (hkeep k)]
  · by_cases hk : k = s.ctl.actId
    · subst hk
      rw [memRead_of_responder (respondAll_addressed hr), memRead_of_responder hr, hb,
        respond_read_store _ _ _ _ (hwf r (List.mem_of_getElem? hr))]
      simp only [true_and]
      -- The broadcast: a port's lines are the bundle's own (41_signal_bundle_mux.md R132).
      rfl
    · simp [hk, memRead_congr (respondAll_other hsel hk)]

/-- A turn that completes a READ returns the word addressed, and any other turn returns 0 (20_memory.md R62). -/
theorem respondAll_readData {s : State} (hok : bundleOk s.params.nr s.ctl s.bundle = true) :
    (respondAll s).bundle.readData =
      if (respondAll s).bundle.ready = true ∧ s.bundle.writeEnable = false
      then (respondAll s).memRead s.ctl.actId s.bundle.address else 0 := by
  rcases respondAll_cases hok with ⟨hb, -⟩ | ⟨-, -, r, hr, hb⟩
  · simp [hb, Drive.quiet]
  · rw [memRead_of_responder (respondAll_addressed hr), hb]
    exact respond_readData_eq _ _ _ _

/-! ### Whole cycles -/

/-- Samples and `render` keep every store (43_waveform_sampler.md R160, R165). -/
@[simp] theorem finishCycle_memRead (c : CycleInput) (s : State) (k a : Nat) :
    (finishCycle c s).memRead k a = s.memRead k a := rfl

/-- Every cycle that answers is a reset that keeps the stores, or a responders' turn that began with the stores of the
cycle before and with lines that agree with the phase; the host's acts and `advance` write no store. -/
theorem step_memory_cases {s t : State} (h : step s = .next t) :
    (t.ctl.phase = .idle ∧ t.bundle.readData = 0 ∧ ∀ k a, t.memRead k a = s.memRead k a) ∨
    ∃ u, u.responders = s.responders ∧ bundleOk u.params.nr u.ctl u.bundle = true ∧
      t = finishCycle s.nextInput (respondAll u) := by
  obtain ⟨s1, hacts, hblock⟩ := step_cases h
  obtain ⟨-, -, hhost, -⟩ := hostActs_frame hacts
  rcases hblock with ⟨-, rfl⟩ | ⟨-, s2, hexec, hok, rfl⟩
  · refine .inl ⟨rfl, rfl, fun k a => (resetCycle_memRead s1 k a).trans (memRead_congr ?_ a)⟩
    rw [hhost, takeInput_responders]
  · obtain ⟨-, -, hadvance, -⟩ := exec_frame hexec
    exact .inr ⟨sampleTimes s.nextInput.earlySamples s2, hadvance.trans hhost, hok, rfl⟩

/-- Settles O35: a reset keeps the stores, and the responders' turn writes the word addressed when it raises `ready` on
a WRITE, which it does in `ACCESS` only. -/
theorem storesChangeOnlyInACompletingWrite : Obligations.StoresChangeOnlyInACompletingWrite := by
  intro s t hinv h k a
  rcases step_memory_cases h with ⟨hp, -, hkeep⟩ | ⟨u, hres, hok, rfl⟩
  · simp [hp, hkeep]
  · have hwf : ∀ r ∈ u.responders, Memory.wf r.store = true := fun r hr => (hinv.stores r (hres ▸ hr)).1
    have hstart : u.memRead k a = s.memRead k a := memRead_congr (by rw [hres]) a
    rw [finishCycle_memRead, respondAll_memRead hok hwf, hstart]
    by_cases hready : (respondAll u).bundle.ready = true
    · simp [respondAll_ready hok hready]
    · simp [hready]

/-- Settles O36: a reset returns 0, and the responders' turn returns the word addressed when it raises `ready` on a READ,
which it does in `ACCESS` only. -/
theorem readDataOnlyInTheCompletingCycle : Obligations.ReadDataOnlyInTheCompletingCycle := by
  intro s t h
  rcases step_memory_cases h with ⟨hp, hzero, -⟩ | ⟨u, -, hok, rfl⟩
  · simp [hp, hzero]
  · rw [finishCycle_memRead, finishCycle_bundle, respondAll_readData hok]
    by_cases hready : (respondAll u).bundle.ready = true
    · simp [respondAll_ready hok hready]
    · simp [hready]

end Sys2Proof.Machine
end

section
/-! PROOFS. The statements of 30_encoding.md on the packed request: its layout (R71), the command field (R72), the words
that are refused (R73), and that decoder and encoder are inverse to each other. -/
namespace Sys2Proof

/-! ### Slices of a packed word

A word packs a field below the rest of it: `f + 2 ^ a * rest` with `f < 2 ^ a`. -/

/-- The lowest bits of a value that fits them are the value. -/
theorem slice_zero_of_lt {v width : Nat} (h : v < 2 ^ width) : slice v 0 width = v := by
  simp [slice, Nat.mod_eq_of_lt h]

/-- The lowest bits of a packed word are its lowest field. -/
theorem slice_lowest {f a : Nat} (h : f < 2 ^ a) (rest : Nat) : slice (f + 2 ^ a * rest) 0 a = f := by
  simp [slice, Nat.mod_eq_of_lt h]

/-- The bits above the lowest field of a packed word are those of the rest. -/
theorem slice_above {f a : Nat} (h : f < 2 ^ a) (rest lo width : Nat) :
    slice (f + 2 ^ a * rest) (lo + a) width = slice rest lo width := by
  have hrest : (f + 2 ^ a * rest) / 2 ^ a = rest := by
    rw [Nat.add_mul_div_left _ _ (Nat.two_pow_pos a), Nat.div_eq_of_lt h, Nat.zero_add]
  rw [slice, slice, Nat.add_comm lo a, Nat.pow_add, ← Nat.div_div_eq_div_mul, hrest]

/-- The field right above the lowest one is the lowest of the rest. -/
theorem slice_next {f a : Nat} (h : f < 2 ^ a) (rest width : Nat) :
    slice (f + 2 ^ a * rest) a width = slice rest 0 width := by
  simpa using slice_above h rest 0 width

/-- A slice is its lower part with the upper part packed above it. -/
theorem slice_add (w lo a b : Nat) : slice w lo (a + b) = slice w lo a + 2 ^ a * slice w (a + lo) b := by
  rw [slice, slice, slice, Nat.pow_add, Nat.mod_mul, Nat.div_div_eq_div_mul, ← Nat.pow_add, Nat.add_comm lo a]

/-- A field packed below a rest that fits `b` bits fits `a + b` bits. -/
theorem packed_lt {f a rest b : Nat} (hf : f < 2 ^ a) (hrest : rest < 2 ^ b) : f + 2 ^ a * rest < 2 ^ (a + b) :=
  calc
    f + 2 ^ a * rest < 2 ^ a + 2 ^ a * rest := Nat.add_lt_add_right hf _
    _ = 2 ^ a * (rest + 1) := by rw [Nat.mul_succ, Nat.add_comm]
    _ ≤ 2 ^ a * 2 ^ b := Nat.mul_le_mul_left _ hrest
    _ = 2 ^ (a + b) := (Nat.pow_add 2 a b).symm

/-- Mask 3 is the command field (30_encoding.md R72). -/
theorem and_three (w : Nat) : w &&& 0x3 = slice w 0 2 := by
  rw [slice, Nat.pow_zero, Nat.div_one]
  exact Nat.and_two_pow_sub_one_eq_mod w 2

/-! ### The command field -/

theorem Command.code_lt (c : Command) : c.code < 2 ^ 2 := by cases c <;> decide

@[simp] theorem commandOf_code (c : Command) : commandOf c.code = .ok c := by cases c <;> rfl

/-- The command field holds the number of a command or the reserved one (30_encoding.md R72, R73). -/
theorem command_field_cases (w : Nat) : (∃ c : Command, slice w 0 2 = c.code) ∨ slice w 0 2 = 3 := by
  have hlt : slice w 0 2 < 4 := Nat.mod_lt _ (by decide)
  obtain h | h | h | h : slice w 0 2 = 0 ∨ slice w 0 2 = 1 ∨ slice w 0 2 = 2 ∨ slice w 0 2 = 3 := by omega
  · exact .inl ⟨.idle, h⟩
  · exact .inl ⟨.read, h⟩
  · exact .inl ⟨.write, h⟩
  · exact .inr h

/-! ### The encoder -/

/-- Every id that a command may name fits the id field (00_scope.md R6, 30_encoding.md R73). -/
theorem Params.idBound_le (p : Params) (c : Command) : p.idBound c ≤ 2 ^ p.idW := by
  cases c with
  | idle => exact le_rfl
  | read => exact Machine.nr_le_two_pow_idW p
  | write => exact Machine.nr_le_two_pow_idW p

theorem responderId_fits {p : Params} {i : Instr} (h : i.wf p = true) : i.responderId < 2 ^ p.idW :=
  Nat.lt_of_lt_of_le (Instr.wf_iff.mp h).1 (p.idBound_le _)

/-- The encoder packs each field below the ones that follow it (30_encoding.md R71). -/
theorem encode_eq_packed (p : Params) (i : Instr) :
    encode p i = i.command.code + 2 ^ 2 * (i.responderId + 2 ^ p.idW * (i.address + 2 ^ p.aw * i.data)) := by
  unfold encode
  ring

section Layout
variable {p : Params} {i : Instr}

theorem slice_encode_command : slice (encode p i) 0 2 = i.command.code := by
  rw [encode_eq_packed, slice_lowest i.command.code_lt]

/-- The bits above the command are the packed operands. -/
theorem slice_encode_above (lo width : Nat) :
    slice (encode p i) (lo + 2) width =
      slice (i.responderId + 2 ^ p.idW * (i.address + 2 ^ p.aw * i.data)) lo width := by
  rw [encode_eq_packed, slice_above i.command.code_lt]

variable (h : i.wf p = true)
include h

theorem slice_encode_responderId : slice (encode p i) 2 p.idW = i.responderId :=
  (slice_encode_above 0 p.idW).trans (slice_lowest (responderId_fits h) _)

theorem slice_encode_address : slice (encode p i) (p.idW + 2) p.aw = i.address := by
  obtain ⟨-, ha, -⟩ := Instr.wf_iff.mp h
  rw [slice_encode_above, slice_next (responderId_fits h), slice_lowest ha]

theorem slice_encode_data : slice (encode p i) (p.aw + p.idW + 2) p.dw = i.data := by
  obtain ⟨-, ha, hd⟩ := Instr.wf_iff.mp h
  rw [slice_encode_above, slice_above (responderId_fits h), slice_next ha, slice_zero_of_lt hd]

theorem encode_lt : encode p i < 2 ^ p.reqW := by
  obtain ⟨-, ha, hd⟩ := Instr.wf_iff.mp h
  have hlt := packed_lt i.command.code_lt (packed_lt (responderId_fits h) (packed_lt ha hd))
  rwa [← encode_eq_packed, ← Nat.add_assoc, ← Nat.add_assoc] at hlt

end Layout

/-- Settles O3: each field is read back from the packed form. -/
theorem packedRequestLayout : Obligations.PackedRequestLayout :=
  ⟨fun _ _ h => ⟨slice_encode_command, slice_encode_responderId h, slice_encode_address h, slice_encode_data h,
    encode_lt h⟩, by decide⟩

/-! ### The decoder -/

/-- The instruction of command `c` whose operands stand in the word (30_encoding.md R71). -/
def unpack (p : Params) (c : Command) (w : Nat) : Instr :=
  mkInstr c (slice w 2 p.idW) (slice w (p.idW + 2) p.aw) (slice w (p.aw + p.idW + 2) p.dw)

/-- The operands of an instruction's own word are its own. -/
theorem unpack_encode {p : Params} {i : Instr} (h : i.wf p = true) : unpack p i.command (encode p i) = i := by
  rw [unpack, slice_encode_responderId h, slice_encode_address h, slice_encode_data h, Machine.mkInstr_fields]

/-- The fields of a word make up the whole word: no bit of it is dropped (30_encoding.md R71). -/
theorem encode_unpack {p : Params} {c : Command} {w : Nat} (hw : w < 2 ^ p.reqW) (hc : slice w 0 2 = c.code) :
    encode p (unpack p c w) = w :=
  calc
    encode p (unpack p c w) = slice w 0 (2 + (p.idW + (p.aw + p.dw))) := by
      simp [encode_eq_packed, unpack, ← hc, slice_add, Nat.add_assoc]
    _ = w := slice_zero_of_lt (by rwa [← Nat.add_assoc, ← Nat.add_assoc])

/-- A word with a command's number is refused by its id or holds that command (30_encoding.md R73). -/
theorem decode_of_command {p : Params} {c : Command} {w : Nat} (hw : w < 2 ^ p.reqW) (hc : slice w 0 2 = c.code) :
    decode p w =
      if p.idBound c ≤ slice w 2 p.idW then .error (.config (.responderId (slice w 2 p.idW)))
      else .ok (unpack p c w) := by
  simp only [decode, Nat.not_le.mpr hw, if_false, hc, commandOf_code]
  rfl

/-- Command 3 names no operation (30_encoding.md R73). -/
theorem decode_of_reserved {p : Params} {w : Nat} (hw : w < 2 ^ p.reqW) (hc : slice w 0 2 = 3) :
    decode p w = .error (.config (.command 3)) := by
  simp [decode, Nat.not_le.mpr hw, hc, commandOf]

/-- The words the decoder accepts, and what it makes of them. -/
theorem decode_eq_ok_iff {p : Params} {w : Nat} {i : Instr} :
    decode p w = .ok i ↔
      w < 2 ^ p.reqW ∧ slice w 0 2 = i.command.code ∧ slice w 2 p.idW < p.idBound i.command ∧
        unpack p i.command w = i := by
  constructor
  · intro h
    by_cases hw : w < 2 ^ p.reqW
    · rcases command_field_cases w with ⟨c, hc⟩ | hc
      · rw [decode_of_command hw hc] at h
        split at h
        · cases h
        · rename_i hid
          cases h
          simp [unpack, hw, hc, Nat.lt_of_not_le hid]
      · rw [decode_of_reserved hw hc] at h
        cases h
    · simp [decode, Nat.not_lt.mp hw] at h
  · rintro ⟨hw, hc, hid, hi⟩
    rw [decode_of_command hw hc, if_neg (Nat.not_le.mpr hid), hi]

/-- Settles O1: the word of a well-formed request is in range, names its command and an id that command may name, and
holds its operands. -/
theorem decodeOfEncodeIsTheRequest : Obligations.DecodeOfEncodeIsTheRequest := by
  intro p i h
  obtain ⟨hid, -, -⟩ := Instr.wf_iff.mp h
  rw [← slice_encode_responderId h] at hid
  exact decode_eq_ok_iff.mpr ⟨encode_lt h, slice_encode_command, hid, unpack_encode h⟩

/-- Settles O2: an accepted word is made up of the fields the decoder reads. -/
theorem encodeOfDecodeIsTheWord : Obligations.EncodeOfDecodeIsTheWord := by
  intro p w i h
  obtain ⟨hw, hc, -, hi⟩ := decode_eq_ok_iff.mp h
  rw [← encode_unpack hw hc, hi]

/-- Settles O4: the masked bits of an accepted word are the number of its command, and the three numbers differ. -/
theorem commandFieldSelectsTheOperation : Obligations.CommandFieldSelectsTheOperation := by
  intro p w i h
  obtain ⟨-, hc, -, -⟩ := decode_eq_ok_iff.mp h
  rw [and_three, hc]
  cases i.command <;> decide

/-- Settles O6: six closed words, each decoded by evaluation. -/
theorem wordsOfTheSpecDecode : Obligations.WordsOfTheSpecDecode := by
  unfold Obligations.WordsOfTheSpecDecode
  decide

end Sys2Proof

namespace Sys2Proof.Machine

/-! ### Words that the host presents -/

/-- A word that the decoder refuses with a ConfigurationError is refused where it is presented, with no effect on the
state (30_encoding.md R73, 60_exceptions.md R204). -/
theorem presentWord_of_config {s : State} {w : Nat} {e : ConfigError}
    (h : decode s.params w = .error (.config e)) : presentWord w s = .fault (.configurationError e s) := by
  simp [presentWord, h, raiseConfiguration]

section Present
variable {s : State} {w : Nat} {c : Command} (hw : w < 2 ^ s.params.reqW) (hc : slice w 0 2 = c.code)
include hw hc

theorem presentWord_of_id_ge (hid : s.params.idBound c ≤ slice w 2 s.params.idW) :
    presentWord w s = .fault (.configurationError (.responderId (slice w 2 s.params.idW)) s) :=
  presentWord_of_config ((decode_of_command hw hc).trans (if_pos hid))

theorem presentWord_of_id_lt (hid : slice w 2 s.params.idW < s.params.idBound c) :
    presentWord w s = .next (s.setRequest (requestOf (unpack s.params c w))) :=
  presentWord_of_decode ((decode_of_command hw hc).trans (if_neg (Nat.not_le.mpr hid)))

end Present

/-- Settles O5: the command field picks the clause. For READ and WRITE the bound on the id is `NR`; for IDLE it is the
width of the id field, which every slice of that width meets. -/
theorem reservedAndIllegalWordsAreRefused : Obligations.ReservedAndIllegalWordsAreRefused := by
  intro s w hw
  rw [and_three]
  refine ⟨fun hc => ?_, fun hc hid => ?_, fun hc => ?_, fun hc hid => ?_⟩
  · exact presentWord_of_config (decode_of_reserved hw hc)
  · rcases hc with hc | hc
    · exact presentWord_of_id_ge (c := .read) hw hc hid
    · exact presentWord_of_id_ge (c := .write) hw hc hid
  · exact presentWord_of_id_lt (c := .idle) hw hc (Nat.mod_lt _ (Nat.two_pow_pos _))
  · exact presentWord_of_id_lt (c := .read) hw hc hid

end Sys2Proof.Machine
end

section
/-! PROOFS. The statements of 30_encoding.md on the waveform text: hex literals (R81) and the length of a wave (R84). -/
namespace Sys2Proof.Machine

/-! ### Hex literals -/

/-- With fuel for every digit, `digits` is the base representation without padding. -/
theorem digits_eq_toDigits {base : Nat} (hbase : 1 < base) {fuel n : Nat} (h : n < base ^ (fuel + 1)) :
    digits base fuel n = Nat.toDigits base n := by
  induction fuel generalizing n with
  | zero =>
    have hn : n < base := by simpa using h
    rw [digits, Nat.mod_eq_of_lt hn, Nat.toDigits_of_lt_base hn]
  | succ fuel ih =>
    have hdiv : n / base < base ^ (fuel + 1) := Nat.div_lt_of_lt_mul (by rwa [← Nat.pow_succ'])
    rw [digits, ih hdiv]
    exact (Nat.toDigits_eq_if hbase).symm

/-- `log2` is fuel for the hexadecimal digits of a value, which has at least as many binary ones. -/
theorem hexDigits_eq_toDigits (v : Nat) : digits 16 (Nat.log2 v) v = Nat.toDigits 16 v :=
  digits_eq_toDigits (by decide)
    (Nat.lt_of_lt_of_le Nat.lt_log2_self (Nat.pow_le_pow_left (by decide : 2 ≤ 16) (Nat.log2 v + 1)))

/-- A hex literal is its fixed front, zeros up to the fewest digits, and the digits in their letter case
(30_encoding.md R81). -/
theorem hexLiteral_eq (w : WaveStyle) (fewest v : Nat) :
    hexLiteral w fewest v =
      w.hexPrefix.toList ++ List.replicate (fewest - (Nat.toDigits 16 v).length) '0' ++
        (Nat.toDigits 16 v).map (hexCase w) := by
  rw [← hexDigits_eq_toDigits]
  rfl

/-- With the defaults no name asks for padding (30_encoding.md R81). -/
theorem fewestDigits_default (t : Track) : fewestDigits {} t = 1 := by
  cases t with
  | clock => rfl
  | field f => cases f <;> rfl

/-- With the defaults a digit keeps its lower case (30_encoding.md R81). -/
theorem hexCase_default : hexCase {} = id := rfl

/-- Settles O49: with the defaults there is no padding, since a value has at least one digit, and no change of case. -/
theorem hexLiteralIsPrefixedHexadecimal : Obligations.HexLiteralIsPrefixedHexadecimal := by
  refine ⟨fun t v => ?_, hexLiteral_eq⟩
  have hpad : 1 - (Nat.toDigits 16 v).length = 0 := Nat.sub_eq_zero_of_le Nat.length_toDigits_pos
  rw [hexLiteral_eq, fewestDigits_default, hpad, hexCase_default, List.map_id, List.replicate_zero, List.append_nil]

/-! ### Waves -/

@[simp] theorem length_clockWaveFrom (w : WaveStyle) (i n : Nat) : (clockWaveFrom w i n).length = n := by
  induction n generalizing i with
  | zero => rfl
  | succ n ih => simp [clockWaveFrom, ih]

@[simp] theorem length_waveFrom (w : WaveStyle) (mark : Nat → Char) (prev : Option Nat) (vs : List Nat) :
    (waveFrom w mark prev vs).length = vs.length := by
  induction vs generalizing prev with
  | nil => rfl
  | cons v vs ih => simp [waveFrom, ih]

@[simp] theorem length_numbers (l : Log) : l.numbers.length = l.values.length := List.length_map _

/-- The wave of a log of `count` values has `count` characters, whatever its kind (30_encoding.md R84). -/
theorem length_waveOf (w : WaveStyle) {count : Nat} {l : Log} (h : l.values.length = count) :
    (waveOf w count l).length = count := by
  unfold waveOf
  cases trackKind l.name with
  | clock => exact length_clockWaveFrom w 0 count
  | level => simp [levelWave, h]
  | value => simp [valueWave, h]

/-- Settles O45: a typed recorder's logs hold `count` values each. -/
theorem waveHasOneCharacterPerSample : Obligations.WaveHasOneCharacterPerSample :=
  fun w _ _ htyped l hl => length_waveOf w (htyped.lengths l hl)

end Sys2Proof.Machine
end

section
/-! PROOFS. The statements of 40_bus_controller_fsm.md about `advance`: what it does in each phase (R100 to R106), that it
does not read the request during a transfer (R107), and what it leaves unchanged (R108). -/
namespace Sys2Proof.Machine

/-! ### `advance`, phase by phase -/

/-- Every command reads the phase first; what it does itself it does in phase `IDLE` (40_bus_controller_fsm.md R100). -/
theorem exec_eq_advance (i : Instr) (s : State) : ∃ atIdle, exec i s = advance atIdle s := by
  cases i <;> exact ⟨_, rfl⟩

section Exec
variable {s : State} {i : Instr}

theorem exec_of_idle_command (hp : s.ctl.phase = .idle) (hi : i.command = .idle) : exec i s = .next s := by
  cases i with
  | idle r a d => simp [exec, execIdle, advance, hp]
  | read r a d => cases hi
  | write r a d => cases hi

theorem exec_of_accept (hp : s.ctl.phase = .idle) (hi : i.command ≠ .idle) (hwf : i.wf s.params = true) :
    exec i s = .next (acceptTransfer i.command i.responderId i.address (acceptedData i s) s) := by
  cases i with
  | idle r a d => exact absurd rfl hi
  | read r a d =>
    have hpass := requestTests_pass.mpr (show (mkInstr .read r a d).wf s.params = true from hwf)
    simp only [exec, execRead, advance, hp, checked_of_pass hpass]
    rfl
  | write r a d =>
    have hpass := requestTests_pass.mpr (show (mkInstr .write r a d).wf s.params = true from hwf)
    simp only [exec, execWrite, advance, hp, checked_of_pass hpass]
    rfl

theorem exec_of_setup (hp : s.ctl.phase = .setup) : exec i s = .next (setupToAccess s) := by
  obtain ⟨o, ho⟩ := exec_eq_advance i s
  simp [ho, advance, hp]

theorem exec_of_wait (hp : s.ctl.phase = .access) (hr : s.bundle.ready = false) : exec i s = .next s := by
  obtain ⟨o, ho⟩ := exec_eq_advance i s
  simp [ho, advance, hp, hr]

theorem exec_of_ready (hp : s.ctl.phase = .access) (hr : s.bundle.ready = true) :
    exec i s = .next (accessToIdle s) := by
  obtain ⟨o, ho⟩ := exec_eq_advance i s
  simp [ho, advance, hp, hr]

end Exec

/-- Settles O15: in phase `IDLE` the command alone decides, not its operands. -/
theorem idleCommandWritesNothing : Obligations.IdleCommandWritesNothing :=
  fun _ _ _ _ hp => exec_of_idle_command hp rfl

/-- Settles O16: a READ whose operands are in range is well formed, and is accepted. -/
theorem readCommandEntersSetup : Obligations.ReadCommandEntersSetup :=
  fun _ i a d hp hi ha hd =>
    exec_of_accept (i := .read i a d) hp (by simp [Instr.command]) (Instr.wf_iff.mpr ⟨hi, ha, hd⟩)

/-- Settles O17: a WRITE whose operands are in range is well formed, and is accepted. -/
theorem writeCommandEntersSetup : Obligations.WriteCommandEntersSetup :=
  fun _ i a d hp hi ha hd =>
    exec_of_accept (i := .write i a d) hp (by simp [Instr.command]) (Instr.wf_iff.mpr ⟨hi, ha, hd⟩)

/-- Settles O20: the dispatch on the phase `SETUP`. -/
theorem setupLastsOneCycle : Obligations.SetupLastsOneCycle := fun _ _ => exec_of_setup

/-- Settles O21: the dispatch on the phase `ACCESS`, with `ready` low. -/
theorem accessHoldsWhileNotReady : Obligations.AccessHoldsWhileNotReady := fun _ _ => exec_of_wait

/-- Settles O22: the dispatch on the phase `ACCESS`, with `ready` up. -/
theorem accessEndsOnReady : Obligations.AccessEndsOnReady := fun _ _ => exec_of_ready

/-- Settles O19: the operand tests stop only an ill-formed request, and stop it by a refusal. -/
theorem advanceIsTotalAndRaisesNothing : Obligations.AdvanceIsTotalAndRaisesNothing :=
  fun s i => ⟨exec_next_of_wf, exec_ne_fault i s⟩

/-- `advance` writes neither what the responders drive nor `strobe` (40_bus_controller_fsm.md R108). -/
theorem exec_bundle_frame {i : Instr} {s t : State} (h : exec i s = .next t) :
    t.bundle.readData = s.bundle.readData ∧ t.bundle.ready = s.bundle.ready ∧ t.bundle.error = s.bundle.error ∧
      t.bundle.strobe = s.bundle.strobe := by
  rcases exec_cases h with ⟨-, -, rfl⟩ | ⟨-, -, -, rfl⟩ | ⟨-, rfl⟩ | ⟨-, -, rfl⟩ | ⟨-, -, rfl⟩ <;>
    exact ⟨rfl, rfl, rfl, rfl⟩

/-- Settles O24, from the two frames of `advance`; the words are those of the responders. -/
theorem advanceLeavesTheRestUnchanged : Obligations.AdvanceLeavesTheRestUnchanged := by
  intro s t i h
  obtain ⟨hdata, hready, herror, hstrobe⟩ := exec_bundle_frame h
  obtain ⟨hparams, hrequest, hresponders, hrecorder, hinputs, hrender⟩ := exec_frame h
  exact ⟨hdata, hready, herror, hstrobe, hparams, hrequest, hresponders, hrecorder, hinputs, hrender,
    fun k a => memRead_congr (by rw [hresponders]) a⟩

/-! ### The request during a transfer -/

/-- During a transfer `advance` neither reads the request nor asks which command it holds
(40_bus_controller_fsm.md R107). -/
theorem exec_setRequest_of_busy {s : State} (hp : s.ctl.phase ≠ .idle) (i j : Instr) (q : Request) :
    exec i (s.setRequest q) = andThen (exec j s) fun t => .next (t.setRequest q) := by
  cases hph : s.ctl.phase with
  | idle => exact absurd hph hp
  | setup =>
    rw [exec_of_setup hph, exec_of_setup (s := s.setRequest q) hph]
    rfl
  | access =>
    cases hr : s.bundle.ready with
    | false =>
      rw [exec_of_wait hph hr, exec_of_wait (s := s.setRequest q) hph hr]
      rfl
    | true =>
      rw [exec_of_ready hph hr, exec_of_ready (s := s.setRequest q) hph hr]
      rfl

theorem respondersTurn_of_ok {s : State} (h : bundleOk s.params.nr s.ctl s.bundle = true) :
    respondersTurn s = .next (respondAll s) := if_pos h

theorem respondersTurn_of_not_ok {s : State} (h : ¬ bundleOk s.params.nr s.ctl s.bundle = true) :
    respondersTurn s = .refused (bundleRefusal s.ctl s.bundle) := if_neg h

/-- The responders' turn does not read the request. -/
theorem respondersTurn_setRequest (s : State) (q : Request) :
    respondersTurn (s.setRequest q) = andThen (respondersTurn s) fun t => .next (t.setRequest q) := by
  by_cases hok : bundleOk s.params.nr s.ctl s.bundle = true
  · rw [respondersTurn_of_ok hok, respondersTurn_of_ok (s := s.setRequest q) hok]
    rfl
  · rw [respondersTurn_of_not_ok hok, respondersTurn_of_not_ok (s := s.setRequest q) hok]
    rfl

theorem busCycle_setRequest_of_busy {s : State} (hp : s.ctl.phase ≠ .idle) (c : CycleInput) (q : Request) :
    busCycle c (s.setRequest q) = andThen (busCycle c s) fun t => .next (t.setRequest q) := by
  simp only [busCycle, exec_setRequest_of_busy hp _ s.request.toInstr, andThen_assoc, andThen_next]
  congr 1
  funext t
  exact respondersTurn_setRequest (sampleTimes c.earlySamples t) q

/-- During a transfer nothing after step 1 of a cycle reads the request, a reset and `render` included. -/
theorem blockCycle_setRequest_of_busy {s : State} (hp : s.ctl.phase ≠ .idle) (c : CycleInput) (q : Request) :
    blockCycle c (s.setRequest q) = andThen (blockCycle c s) fun t => .next (t.setRequest q) := by
  unfold blockCycle
  cases c.rst with
  | true => rfl
  | false =>
    simp only [Bool.false_eq_true, if_false, busCycle_setRequest_of_busy hp, andThen_assoc, andThen_next]
    rfl

/-- A cycle in which the host writes nothing begins with step 2. -/
theorem step_of_no_acts {s : State} (h : s.nextInput.acts = []) : step s = blockCycle s.nextInput s.takeInput := by
  rw [step, cycle, h]
  rfl

/-- Settles O25: first for `advance`, with the request left as it is, then for the whole cycle. -/
theorem requestIsNotReadDuringATransfer : Obligations.RequestIsNotReadDuringATransfer := by
  refine ⟨fun s i j hp => ?_, fun s q hp hacts => ?_⟩
  · exact (exec_setRequest_of_busy hp i j s.request).trans (exec_setRequest_of_busy hp j j s.request).symm
  · rw [step_of_no_acts hacts, step_of_no_acts (s := { s with request := q }) hacts]
    exact blockCycle_setRequest_of_busy (s := s.takeInput) hp s.nextInput q

end Sys2Proof.Machine
end

section
/-! PROOFS. The statements of 40_bus_controller_fsm.md about whole cycles: a cycle between transfers (R112), the course
of a transfer (R113), and a command left in the request (R111). -/
namespace Sys2Proof.Machine

/-! ### Runs of cycles -/

/-- A run that is one cycle longer, split at its last cycle. -/
theorem cycles_succ_of_last {n : Nat} {s t u : State} (hn : cycles n s = .next t) (ht : step t = .next u) :
    cycles (n + 1) s = .next u := by
  induction n generalizing s with
  | zero =>
    cases hn
    simp [cycles, ht]
  | succ n ih =>
    obtain ⟨s', hs, hn⟩ := andThen_eq_next.mp hn
    rw [cycles, hs]
    exact ih hn

/-- A run that is one cycle longer, split at its first cycle. -/
theorem cycles_succ_of_first {n : Nat} {s t : State} (hs : step s = .next t) : cycles (n + 1) s = cycles n t := by
  rw [cycles, hs, andThen_next]

/-- What every cycle keeps, every run of cycles keeps. -/
theorem cycles_keeps {P : State → Prop} (hstep : ∀ s t, P s → step s = .next t → P t) {n : Nat} {s t : State}
    (hs : P s) (h : cycles n s = .next t) : P t := by
  induction n generalizing s with
  | zero =>
    cases h
    exact hs
  | succ n ih =>
    obtain ⟨u, hu, h⟩ := andThen_eq_next.mp h
    exact ih (hstep s u hs hu) h

/-- Every cycle takes one cycle off the host's plan. -/
theorem step_inputs {s t : State} (h : step s = .next t) : t.inputs = s.inputs.tail := by
  obtain ⟨s1, hacts, hblock⟩ := step_cases h
  obtain ⟨-, -, -, -, hhost, -, -⟩ := hostActs_frame hacts
  rcases hblock with ⟨-, rfl⟩ | ⟨-, s2, hexec, -, rfl⟩
  · exact hhost
  · obtain ⟨-, -, -, -, hadvance, -⟩ := exec_frame hexec
    exact hadvance.trans hhost

/-- Without an act of the host a cycle keeps the request. -/
theorem step_request {s t : State} (hacts : s.nextInput.acts = []) (h : step s = .next t) : t.request = s.request := by
  obtain ⟨s1, hs1, hblock⟩ := step_cases h
  rw [hacts] at hs1
  cases hs1
  rcases hblock with ⟨-, rfl⟩ | ⟨-, s2, hexec, -, rfl⟩
  · rfl
  · obtain ⟨-, hadvance, -⟩ := exec_frame hexec
    exact hadvance

/-- What holds of every planned cycle, and of one in which nothing is planned, holds of the next cycle. -/
theorem nextInput_of_forall {P : CycleInput → Prop} (hdefault : P {}) {s : State} (h : ∀ c ∈ s.inputs, P c) :
    P s.nextInput := by
  unfold State.nextInput
  cases hin : s.inputs with
  | nil => exact hdefault
  | cons c cs => exact h c (by simp [hin])

theorem hostWaits_nextInput {s : State} (h : s.hostWaits) : s.nextInput.leavesTransfer :=
  nextInput_of_forall ⟨rfl, .inl rfl⟩ h

theorem hostWaits_rst {s : State} (h : s.hostWaits) : s.nextInput.rst = false := (hostWaits_nextInput h).1

theorem step_hostWaits {s t : State} (h : s.hostWaits) (hs : step s = .next t) : t.hostWaits :=
  fun c hc => h c (List.mem_of_mem_tail (step_inputs hs ▸ hc))

theorem nextInput_acts {s : State} (h : ∀ c ∈ s.inputs, c.acts = []) : s.nextInput.acts = [] :=
  nextInput_of_forall (P := fun c => c.acts = []) rfl h

/-- A host that writes nothing leaves the request as it is, however many cycles it lets pass. -/
theorem cycles_no_acts {n : Nat} {s t : State} (hacts : ∀ c ∈ s.inputs, c.acts = []) (h : cycles n s = .next t) :
    t.request = s.request ∧ ∀ c ∈ t.inputs, c.acts = [] := by
  refine cycles_keeps (P := fun u => u.request = s.request ∧ ∀ c ∈ u.inputs, c.acts = []) ?_ ⟨rfl, hacts⟩ h
  rintro u v ⟨hreq, hin⟩ hv
  exact ⟨(step_request (nextInput_acts hin) hv).trans hreq,
    fun c hc => hin c (List.mem_of_mem_tail (step_inputs hv ▸ hc))⟩

theorem cycles_params {n : Nat} {s t : State} (h : cycles n s = .next t) : t.params = s.params :=
  cycles_keeps (P := fun u => u.params = s.params) (fun _ _ hu hv => (step_params hv).trans hu) rfl h

/-! ### One cycle from the invariant -/

/-- What follows `advance` in a cycle: the samples that come too early, the responders' turn, and step 4. -/
def afterAdvance (c : CycleInput) (s : State) : State := finishCycle c (respondAll (sampleTimes c.earlySamples s))

section AfterAdvance
variable (c : CycleInput) {s : State} {r : Responder} (hr : s.responders[s.ctl.actId]? = some r)
include hr

theorem afterAdvance_addressed :
    (afterAdvance c s).responders[s.ctl.actId]? =
      some (respond s.params s.ctl.actId (s.bundle.port s.ctl.actId) r).1 :=
  respondAll_addressed (s := sampleTimes c.earlySamples s) hr

theorem afterAdvance_ready (hid : s.ctl.actId < s.params.nr) (hsel : s.bundle.select = oneHot s.params.nr s.ctl.actId) :
    (afterAdvance c s).bundle.ready =
      (respond s.params s.ctl.actId (s.bundle.port s.ctl.actId) r).2.ready := by
  have hbundle := respondAll_bundle (s := sampleTimes c.earlySamples s) hid hsel
  rw [replyOf_eq (s := sampleTimes c.earlySamples s) hr] at hbundle
  exact congrArg Bundle.ready hbundle

end AfterAdvance

/-- With no line up what follows `advance` lowers the return path and leaves the responders alone. -/
theorem afterAdvance_of_noSelect {c : CycleInput} {s : State} (h : s.bundle.select = noSelect s.params.nr) :
    (afterAdvance c s).bundle = s.bundle.drive Drive.quiet ∧ (afterAdvance c s).responders = s.responders := by
  have hall := respondAll_idle (s := sampleTimes c.earlySamples s) h
  rw [afterAdvance, finishCycle_bundle, finishCycle_responders, hall]
  exact ⟨rfl, rfl⟩

theorem takeInput_inv {s : State} (h : s.Inv) : s.takeInput.Inv := setInputs_inv h _

/-- From the invariant no cycle stops that the host's acts and `advance` let pass: the lines agree with the phase. -/
theorem step_of_exec {s s1 t : State} (h : s.Inv) (hrst : s.nextInput.rst = false)
    (hacts : hostActs s.nextInput.acts s.takeInput = .next s1) (hexec : exec s1.request.toInstr s1 = .next t) :
    step s = .next (afterAdvance s.nextInput t) := by
  have h1 : s1.Inv := hostActs_inv (takeInput_inv h) hacts
  have hok : bundleOk t.params.nr t.ctl t.bundle = true := (exec_inv h1 hexec).lines
  simp only [step, cycle, hacts, andThen_next, blockCycle, hrst, Bool.false_eq_true, if_false, busCycle, hexec]
  rw [respondersTurn_of_ok (s := sampleTimes s.nextInput.earlySamples t) hok]
  rfl

@[simp] theorem toInstr_command (q : Request) : q.toInstr.command = q.command := mkInstr_command _ _ _ _
@[simp] theorem toInstr_responderId (q : Request) : q.toInstr.responderId = q.responderId := mkInstr_responderId _ _ _ _
@[simp] theorem toInstr_address (q : Request) : q.toInstr.address = q.address := mkInstr_address _ _ _ _
@[simp] theorem toInstr_data (q : Request) : q.toInstr.data = q.data := mkInstr_data _ _ _ _

/-- Settles O40: `advance` does nothing, and with no line up the responders' turn only lowers the return path. -/
theorem idleCycleKeepsTheBus : Obligations.IdleCycleKeepsTheBus := by
  intro s h hp hcmd hacts hrst
  have hexec : exec s.request.toInstr s.takeInput = .next s.takeInput :=
    exec_of_idle_command hp ((toInstr_command _).trans hcmd)
  have hsel : s.takeInput.bundle.select = noSelect s.takeInput.params.nr := ((bundleOk_iff.mp h.lines).1 hp).1
  obtain ⟨hbundle, hresponders⟩ := afterAdvance_of_noSelect (c := s.nextInput) hsel
  exact ⟨_, step_of_exec h hrst (by rw [hacts]; rfl) hexec, hbundle, rfl, hresponders, rfl⟩

/-- The host's returning the command to Idle is accepted: the operands fit an IDLE as they fitted the command before. -/
theorem hostAct_returnToIdle {s : State} (h : s.request.toInstr.wf s.params = true) :
    hostAct s (.setRequest (some 0) none none none) = .next (s.setRequest { s.request with command := .idle }) := by
  have hid := responderId_fits h
  obtain ⟨-, ha, hd⟩ := Instr.wf_iff.mp h
  rw [toInstr_responderId] at hid
  rw [toInstr_address] at ha
  rw [toInstr_data] at hd
  have hwf : (mkInstr .idle s.request.responderId s.request.address s.request.data).wf s.params = true :=
    Instr.wf_iff.mpr ⟨hid, ha, hd⟩
  exact checked_of_pass (requestTests_pass.mpr hwf) _ _

/-- A host that leaves the transfer alone writes at most the request. -/
theorem hostActs_of_leavesTransfer {s : State} (h : s.Inv) {c : CycleInput} (hc : c.leavesTransfer) :
    ∃ q, hostActs c.acts s = .next (s.setRequest q) := by
  obtain ⟨-, hacts | hacts⟩ := hc <;> rw [hacts]
  · exact ⟨s.request, rfl⟩
  · exact ⟨_, by rw [hostActs, hostAct_returnToIdle h.request]; rfl⟩

/-! ### A transfer in progress -/

/-- The controller holds the operands of the request `q` that it accepted (40_bus_controller_fsm.md R102, R103). -/
structure State.Holds (s : State) (q : Request) : Prop where
  actId : s.ctl.actId = q.responderId
  address : s.bundle.address = q.address
  writeEnable : s.bundle.writeEnable = decide (q.command = .write)
  writeData : q.command = .write → s.bundle.writeData = q.data

/-- What follows `advance` in a cycle leaves the operands in place. -/
theorem afterAdvance_holds (c : CycleInput) {s : State} {q : Request} (h : s.Holds q) : (afterAdvance c s).Holds q :=
  { h with }

/-- The transfer of the request `q` is in progress and not completed, the host leaves it alone, and `r` is the
addressed responder. -/
structure State.Serves (s : State) (q : Request) (r : Responder) : Prop where
  inv : s.Inv
  host : s.hostWaits
  holds : s.Holds q
  busy : s.ctl.phase ≠ .idle
  low : s.bundle.ready = false
  responder : s.responders[s.ctl.actId]? = some r

/-- The cycle that has just ended completed the transfer of the request `q`, and the host leaves it alone. -/
structure State.Completes (s : State) (q : Request) : Prop where
  inv : s.Inv
  host : s.hostWaits
  holds : s.Holds q
  phase : s.ctl.phase = .access
  ready : s.bundle.ready = true

/-- In a transfer the one line up is that of the request, and `enable` tells `ACCESS` from `SETUP`
(10_state.md R22). -/
theorem cycles_lines_of_busy {n : Nat} {s t : State} {q : Request} (hn : cycles n s = .next t) (h : t.Inv)
    (hq : t.Holds q) (hp : t.ctl.phase ≠ .idle) :
    t.bundle.select = oneHot s.params.nr q.responderId ∧ t.bundle.enable = decide (t.ctl.phase = .access) := by
  obtain ⟨-, hsel, hen⟩ := (bundleOk_iff.mp h.lines).2 hp
  rw [cycles_params hn, hq.actId] at hsel
  exact ⟨hsel, hen⟩

/-- Outside `ACCESS` nothing has raised `ready`. -/
theorem ready_low {s : State} (h : s.Inv) (hp : s.ctl.phase ≠ .access) : s.bundle.ready = false :=
  Bool.eq_false_iff.mpr fun hr => hp (h.ready hr).1

/-- A cycle that does not raise `ready` changes no word (20_memory.md R52). -/
theorem memRead_of_low {s t : State} (h : s.Inv) (ht : step s = .next t) (hr : t.bundle.ready = false) (k a : Nat) :
    t.memRead k a = s.memRead k a := by
  simp [storesChangeOnlyInACompletingWrite s t h ht k a, hr]

section Respond
variable {p : Params} {k : Nat} {port : Port} {r : Responder} (hsel : port.sel = true)
include hsel

theorem respond_of_setup (hen : port.enable = false) : respond p k port r = respondSetup p k r := by
  simp [respond, hsel, hen]

theorem respond_of_wait (hen : port.enable = true) (hw : r.waitCnt ≠ .num 0) :
    respond p k port r = respondWait r := by
  simp [respond, hsel, hen, hw]

/-- With no wait cycle left a responder raises `ready`, and has counted the transfer already
(42_wait_state_responder.md R144, R145). -/
theorem respond_of_no_wait (hen : port.enable = true) (hw : r.waitCnt = .num 0) :
    (respond p k port r).2.ready = true ∧ (respond p k port r).1.xferN = r.xferN := by
  cases hwe : port.writeEnable <;> simp [respond, hsel, hen, hw, hwe, respondWrite, respondRead]

end Respond

/-- The state in which `advance` accepts the request (40_bus_controller_fsm.md R102, R103). -/
def State.accepted (s : State) : State :=
  acceptTransfer s.request.command s.request.responderId s.request.address (acceptedData s.request.toInstr s) s

theorem exec_accepts {s : State} (h : s.Inv) (hp : s.ctl.phase = .idle) (hcmd : s.request.command ≠ .idle) :
    exec s.request.toInstr s = .next s.accepted := by
  rw [exec_of_accept hp (by rwa [toInstr_command]) h.request, toInstr_command, toInstr_responderId, toInstr_address]
  rfl

theorem State.accepted_holds (s : State) : s.accepted.Holds s.request :=
  ⟨rfl, rfl, rfl, fun hw => by simp [State.accepted, acceptTransfer, acceptedData, hw]⟩

/-- The first cycle of a transfer: the request is accepted, and the addressed responder draws its wait cycles
(40_bus_controller_fsm.md R102, R103; 42_wait_state_responder.md R142). -/
theorem step_accepts {s : State} {r : Responder} (h : s.Inv) (hp : s.ctl.phase = .idle)
    (hcmd : s.request.command ≠ .idle) (hhost : s.hostWaits) (hacts : s.nextInput.acts = [])
    (hr : s.responders[s.request.responderId]? = some r) :
    ∃ t, step s = .next t ∧
      t.ctl = { phase := .setup, actCmd := s.request.command, actId := s.request.responderId } ∧
      t.Serves s.request
        { r with waitCnt := s.params.draw s.request.responderId r.xferN, xferN := r.xferN + 1 } := by
  have hexec : exec s.request.toInstr s.takeInput = .next s.takeInput.accepted :=
    exec_accepts (takeInput_inv h) hp hcmd
  have hstep := step_of_exec h (hostWaits_rst hhost) (by rw [hacts]; rfl) hexec
  have hinv := everyCycleKeepsTheInvariant _ _ h hstep
  obtain ⟨-, hen⟩ := (bundleOk_iff.mp h.lines).1 hp
  have hreply := afterAdvance_addressed s.nextInput (s := s.takeInput.accepted) hr
  rw [respond_of_setup (port_sel (s := s.takeInput.accepted) hinv.actId rfl) hen] at hreply
  exact ⟨_, hstep, rfl, hinv, step_hostWaits hhost hstep, afterAdvance_holds _ s.takeInput.accepted_holds,
    Phase.noConfusion, ready_low hinv Phase.noConfusion, hreply⟩

/-- Until the transfer completes `advance` leads to `ACCESS` and holds everything else
(40_bus_controller_fsm.md R104, R105). -/
theorem exec_of_low {s : State} (hok : bundleOk s.params.nr s.ctl s.bundle = true) (hp : s.ctl.phase ≠ .idle)
    (hr : s.bundle.ready = false) (i : Instr) : exec i s = .next (setupToAccess s) := by
  obtain ⟨-, -, hen⟩ := (bundleOk_iff.mp hok).2 hp
  cases hph : s.ctl.phase with
  | idle => exact absurd hph hp
  | setup => exact exec_of_setup hph
  | access =>
    have henable : s.bundle.enable = true := by simpa [hph] using hen
    have hstay : setupToAccess s = s := by rw [setupToAccess, ← henable, ← hph]
    rw [hstay]
    exact exec_of_wait hph hr

/-- Every further cycle of a transfer is one in `ACCESS`, and the addressed responder decides whether it completes. -/
theorem step_of_serves {s : State} {q : Request} {r : Responder} (h : s.Serves q r) :
    ∃ t port, step s = .next t ∧ t.ctl.phase = .access ∧ t.Holds q ∧ port.sel = true ∧ port.enable = true ∧
      t.responders[t.ctl.actId]? = some (respond s.params s.ctl.actId port r).1 ∧
      t.bundle.ready = (respond s.params s.ctl.actId port r).2.ready := by
  obtain ⟨q', hacts⟩ := hostActs_of_leavesTransfer (takeInput_inv h.inv) (hostWaits_nextInput h.host)
  have hexec := exec_of_low (s := s.takeInput.setRequest q') h.inv.lines h.busy h.low q'.toInstr
  have hstep := step_of_exec h.inv (hostWaits_rst h.host) hacts hexec
  obtain ⟨-, hsel, -⟩ := (bundleOk_iff.mp h.inv.lines).2 h.busy
  have hr : (setupToAccess (s.takeInput.setRequest q')).responders[s.ctl.actId]? = some r := h.responder
  have hholds : (setupToAccess (s.takeInput.setRequest q')).Holds q := { h.holds with }
  exact ⟨_, (setupToAccess (s.takeInput.setRequest q')).bundle.port s.ctl.actId, hstep, rfl,
    afterAdvance_holds _ hholds, port_sel (s := setupToAccess (s.takeInput.setRequest q')) h.inv.actId hsel, rfl,
    afterAdvance_addressed _ hr, afterAdvance_ready _ hr h.inv.actId hsel⟩

/-- A wait cycle (40_bus_controller_fsm.md R105, 42_wait_state_responder.md R143). -/
theorem step_waits {s : State} {q : Request} {r : Responder} (h : s.Serves q r) (hw : r.waitCnt ≠ .num 0) :
    ∃ t, step s = .next t ∧ t.ctl.phase = .access ∧ t.Serves q { r with waitCnt := waitPred r.waitCnt } := by
  obtain ⟨t, port, ht, hp, hholds, hsel, hen, hr, hready⟩ := step_of_serves h
  rw [respond_of_wait hsel hen hw] at hr hready
  exact ⟨t, ht, hp, everyCycleKeepsTheInvariant s t h.inv ht, step_hostWaits h.host ht, hholds, by simp [hp], hready,
    hr⟩

/-- The completing cycle (40_bus_controller_fsm.md R113, 42_wait_state_responder.md R144, R145). -/
theorem step_completes {s : State} {q : Request} {r : Responder} (h : s.Serves q r) (hw : r.waitCnt = .num 0) :
    ∃ t, step s = .next t ∧ t.Completes q ∧ ∃ r', t.responders[q.responderId]? = some r' ∧ r'.xferN = r.xferN := by
  obtain ⟨t, port, ht, hp, hholds, hsel, hen, hr, hready⟩ := step_of_serves h
  obtain ⟨hraised, hcount⟩ := respond_of_no_wait hsel hen hw
  rw [hholds.actId] at hr
  exact ⟨t, ht, ⟨everyCycleKeepsTheInvariant s t h.inv ht, step_hostWaits h.host ht, hholds, hp, hready.trans hraised⟩,
    _, hr, hcount⟩

/-- The cycle after the completing one is back in phase `IDLE`, and no responder takes part in it
(40_bus_controller_fsm.md R106). -/
theorem step_ends {s : State} {q : Request} (h : s.Completes q) :
    ∃ t, step s = .next t ∧ t.ctl.phase = .idle ∧ t.responders = s.responders := by
  obtain ⟨q', hacts⟩ := hostActs_of_leavesTransfer (takeInput_inv h.inv) (hostWaits_nextInput h.host)
  have hexec := exec_of_ready (s := s.takeInput.setRequest q') (i := q'.toInstr) h.phase h.ready
  obtain ⟨-, hsel, -⟩ := (bundleOk_iff.mp h.inv.lines).2 (by simp [h.phase])
  have hdown : s.bundle.select.set s.ctl.actId false = noSelect s.params.nr := by rw [hsel, set_oneHot]
  obtain ⟨-, hresponders⟩ :=
    afterAdvance_of_noSelect (c := s.nextInput) (s := accessToIdle (s.takeInput.setRequest q')) hdown
  exact ⟨_, step_of_exec h.inv (hostWaits_rst h.host) hacts hexec, rfl, hresponders⟩

/-- The wait cycles of a transfer: each takes one off the addressed responder's count, and no word changes. -/
theorem cycles_wait {s : State} {q : Request} {r : Responder} {n : Nat} (h : s.Serves q r)
    (hn : r.waitCnt = .num n) {j : Nat} (hj : j ≤ n) :
    ∃ t, cycles j s = .next t ∧ t.Serves q { r with waitCnt := .num (n - j) } ∧ (1 ≤ j → t.ctl.phase = .access) ∧
      ∀ k a, t.memRead k a = s.memRead k a := by
  induction j with
  | zero => exact ⟨s, rfl, by simpa [← hn] using h, by simp, fun _ _ => rfl⟩
  | succ j ih =>
    obtain ⟨t, ht, hserves, -, hwords⟩ := ih (by omega)
    obtain ⟨u, hu, hp, hserves'⟩ := step_waits hserves (by simp; omega)
    exact ⟨u, cycles_succ_of_last ht hu, hserves', fun _ => hp,
      fun k a => (memRead_of_low hserves.inv hu hserves'.low k a).trans (hwords k a)⟩

/-- A transfer with `n` wait cycles to come: the state after the last of them, the completing cycle, and the cycle back
in phase `IDLE`. -/
theorem cycles_complete {s : State} {q : Request} {r : Responder} {n : Nat} (h : s.Serves q r)
    (hn : r.waitCnt = .num n) :
    ∃ t u v, cycles n s = .next t ∧ step t = .next u ∧ step u = .next v ∧
      t.Inv ∧ (∀ k a, t.memRead k a = s.memRead k a) ∧ u.Completes q ∧ v.ctl.phase = .idle ∧
      ∃ r', v.responders[q.responderId]? = some r' ∧ r'.xferN = r.xferN := by
  obtain ⟨t, ht, hserves, -, hwords⟩ := cycles_wait h hn le_rfl
  obtain ⟨u, hu, hdone, r', hr', hcount⟩ := step_completes hserves (by simp)
  obtain ⟨v, hv, hp, hkeep⟩ := step_ends hdone
  exact ⟨t, u, v, ht, hu, hv, hserves.inv, hwords, hdone, hp, r', hkeep ▸ hr', hcount⟩

/-! ### The words of a transfer -/

/-- The completing cycle of a WRITE replaces the word it names, and that of a READ none (20_memory.md R52). -/
theorem memRead_of_completes {s t : State} {q : Request} (h : s.Inv) (ht : step s = .next t) (hq : t.Completes q)
    (k a : Nat) :
    t.memRead k a =
      if q.command = .write ∧ k = q.responderId ∧ a = q.address then q.data else s.memRead k a := by
  rw [storesChangeOnlyInACompletingWrite s t h ht k a]
  by_cases hw : q.command = .write
  · simp [hq.phase, hq.ready, hq.holds.writeEnable, hq.holds.actId, hq.holds.address, hq.holds.writeData hw, hw]
  · simp [hq.holds.writeEnable, hw]

/-- The completing cycle of a READ returns the word it names (20_memory.md R62). -/
theorem readData_of_completes {s t : State} {q : Request} (h : s.Inv) (ht : step s = .next t) (hq : t.Completes q)
    (hread : q.command = .read) : t.bundle.readData = s.memRead q.responderId q.address := by
  rw [readDataOnlyInTheCompletingCycle s t ht]
  simp [hq.phase, hq.ready, hq.holds.writeEnable, hq.holds.actId, hq.holds.address, memRead_of_completes h ht hq, hread]

/-- In phase `IDLE` the bus is at rest (10_state.md R22; 41_signal_bundle_mux.md R134). -/
theorem bundle_of_idle {s t : State} (h : s.Inv) (ht : step s = .next t) (hp : t.ctl.phase = .idle) :
    t.bundle.select = noSelect t.params.nr ∧ t.bundle.enable = false ∧ t.bundle.ready = false ∧
      t.bundle.readData = 0 := by
  have hinv := everyCycleKeepsTheInvariant s t h ht
  obtain ⟨hsel, hen⟩ := (bundleOk_iff.mp hinv.lines).1 hp
  exact ⟨hsel, hen, ready_low hinv (by simp [hp]), by simp [readDataOnlyInTheCompletingCycle s t ht, hp]⟩

/-! ### Whole transfers -/

/-- Settles O37: the request is accepted, its responder waits `n` cycles and completes, and `advance` ends the
transfer. -/
theorem transferTakesItsCourse : Obligations.TransferTakesItsCourse := by
  intro s r n h hp hcmd hhost hacts hr hdraw line word
  obtain ⟨t, ht, hctl, hserves⟩ := step_accepts h hp hcmd hhost hacts hr
  have hstart : ∀ k a, t.memRead k a = s.memRead k a := memRead_of_low h ht hserves.low
  obtain ⟨w, u, v, hw, hu, hv, hinv, hwait, hdone, hidle, -⟩ := cycles_complete hserves hdraw
  have ht1 : cycles 1 s = .next t := cycles_succ_of_first ht
  have hun : cycles (n + 2) s = .next u := (cycles_succ_of_first ht).trans (cycles_succ_of_last hw hu)
  have hvn : cycles (n + 3) s = .next v := cycles_succ_of_last hun hv
  refine ⟨⟨t, ht1, ?_⟩, fun j h1 hj => ?_, ⟨u, hun, ?_⟩, ⟨v, hvn, ?_⟩⟩
  · obtain ⟨hsel, hen⟩ := cycles_lines_of_busy ht1 hserves.inv hserves.holds hserves.busy
    obtain ⟨-, haddress, hwe, hdata⟩ := hserves.holds
    exact ⟨by rw [hctl], hsel, by simpa [hctl] using hen, hserves.low, haddress, by simp [hwe], hdata, hstart⟩
  · obtain ⟨x, hx, hwaits, haccess, hwords⟩ := cycles_wait hserves hdraw hj
    have hxj : cycles (j + 1) s = .next x := (cycles_succ_of_first ht).trans hx
    obtain ⟨hsel, hen⟩ := cycles_lines_of_busy hxj hwaits.inv hwaits.holds hwaits.busy
    have hp := haccess h1
    exact ⟨x, hxj, hp, hsel, by simpa [hp] using hen, hwaits.low, fun k a => (hwords k a).trans (hstart k a)⟩
  · obtain ⟨hsel, hen⟩ := cycles_lines_of_busy hun hdone.inv hdone.holds (by simp [hdone.phase])
    refine ⟨hdone.phase, hsel, by simpa [hdone.phase] using hen, hdone.ready, fun k a => ?_, fun hread => ?_⟩
    · rw [memRead_of_completes hinv hu hdone, hwait, hstart]
    · rw [readData_of_completes hinv hu hdone hread, hwait, hstart]
  · obtain ⟨hsel, hen, hready, hdata⟩ := bundle_of_idle hdone.inv hv hidle
    rw [cycles_params hvn] at hsel
    refine ⟨hidle, hsel, hen, hready, hdata, fun k a => ?_⟩
    rw [memRead_of_low hdone.inv hv hready, memRead_of_completes hinv hu hdone, hwait, hstart]

/-- Settles O39: after the completing cycle the request, which nothing has changed, is accepted again. -/
theorem leftoverCommandIsRepeated : Obligations.LeftoverCommandIsRepeated := by
  intro s r n h hp hcmd hquiet hr hdraw
  have hacts : ∀ c ∈ s.inputs, c.acts = [] := fun c hc => (hquiet c hc).2
  have hhost : s.hostWaits := fun c hc => ⟨(hquiet c hc).1, .inl (hacts c hc)⟩
  obtain ⟨t, ht, hctl, hserves⟩ := step_accepts h hp hcmd hhost (nextInput_acts hacts) hr
  obtain ⟨w, u, v, hw, hu, hv, -, -, hdone, hidle, r', hr', hcount⟩ := cycles_complete hserves hdraw
  have hvn : cycles (n + 3) s = .next v :=
    cycles_succ_of_last ((cycles_succ_of_first ht).trans (cycles_succ_of_last hw hu)) hv
  obtain ⟨hreq, hacts'⟩ := cycles_no_acts hacts hvn
  obtain ⟨x, hx, hctl', hserves'⟩ := step_accepts (everyCycleKeepsTheInvariant u v hdone.inv hv) hidle (hreq ▸ hcmd)
    (step_hostWaits hdone.host hv) (nextInput_acts hacts') (hreq ▸ hr')
  have hxn : cycles (n + 4) s = .next x := cycles_succ_of_last hvn hx
  have hr1 := hserves.responder
  have hr2 := hserves'.responder
  rw [hctl] at hr1
  rw [hctl', hreq] at hr2
  exact ⟨t, x, cycles_succ_of_first ht, by rw [hctl], hxn, by rw [hctl', hctl, hreq], (cycles_no_acts hacts hxn).1,
    hreq ▸ hserves'.holds.address, ⟨_, hr1, rfl⟩, _, hr2, by simp [hcount]⟩

end Sys2Proof.Machine
end

section
/-! PROOFS. The statements of 41_signal_bundle_mux.md: the return path bit by bit (R133), a turn with nothing selected
(R134), and the refusal of two select lines (R135). -/
namespace Sys2Proof.Machine

/-! ### The return path -/

/-- A bit of the outputs that is low when nothing is driven, and high in an OR exactly when one of the two drives it, is
high on the return path exactly when a selected responder drives it (41_signal_bundle_mux.md R133). -/
theorem returnPath_bit_iff {bit : Drive → Bool} (hquiet : bit Drive.quiet = false)
    (hor : ∀ d e, bit (orDrive d e) = (bit d || bit e)) (sels : List Bool) (ds : List Drive) :
    bit (returnPath sels ds) = true ↔
      ∃ (k : Nat) (d : Drive), sels[k]? = some true ∧ ds[k]? = some d ∧ bit d = true := by
  induction sels generalizing ds with
  | nil => simp [returnPath, hquiet]
  | cons sel sels ih =>
    cases ds with
    | nil => simp [returnPath, hquiet]
    | cons d ds =>
      have hmask : bit (maskDrive sel d) = (sel && bit d) := by cases sel <;> simp [maskDrive, hquiet]
      rw [returnPath, hor, hmask, Bool.or_eq_true, Bool.and_eq_true, ih]
      refine Iff.trans ?_ Nat.or_exists_add_one
      simp

/-- Settles O27: `ready`, `error` and each bit of `read_data` are bits that the OR of two outputs combines. -/
theorem returnPathOrsTheSelectedOutputs : Obligations.ReturnPathOrsTheSelectedOutputs := fun sels ds =>
  ⟨returnPath_bit_iff (bit := Drive.ready) rfl (fun _ _ => rfl) sels ds,
    returnPath_bit_iff (bit := Drive.error) rfl (fun _ _ => rfl) sels ds,
    fun n => returnPath_bit_iff (bit := fun d => d.readData.testBit n) (Nat.zero_testBit n)
      (fun d e => Nat.testBit_or d.readData e.readData n) sels ds⟩

/-! ### Nothing selected -/

/-- Settles O28: with every line low the turn is accepted, and only lowers the return path. -/
theorem nothingSelectedDrivesZeros : Obligations.NothingSelectedDrivesZeros := by
  intro s hp hsel hen
  have hok : bundleOk s.params.nr s.ctl s.bundle = true :=
    bundleOk_iff.mpr ⟨fun _ => ⟨hsel, hen⟩, fun hbusy => absurd hp hbusy⟩
  exact respondersTurn_eq_next.mpr ⟨hok, (respondAll_idle hsel).symm⟩

/-! ### Two lines selected -/

theorem count_true_noSelect (n : Nat) : (noSelect n).count true = 0 := by
  simp [noSelect, List.count_replicate]

/-- At most one line of a decoded responder id is up (41_signal_bundle_mux.md R131). -/
theorem count_true_oneHot_le (n i : Nat) : (oneHot n i).count true ≤ 1 := by
  have hcount : (oneHot n i).count true = (List.range n).count i := by
    simp [oneHot, List.count, List.countP_map, Function.comp_def, beq_eq_decide]
  rw [hcount]
  exact List.nodup_iff_count_le_one.mp List.nodup_range i

/-- Lines that agree with the phase are mutually exclusive (41_signal_bundle_mux.md R131, 10_state.md R22). -/
theorem count_select_le_of_bundleOk {nr : Nat} {c : Controller} {b : Bundle} (h : bundleOk nr c b = true) :
    b.select.count true ≤ 1 := by
  obtain ⟨hidle, hbusy⟩ := bundleOk_iff.mp h
  by_cases hp : c.phase = .idle
  · obtain ⟨hsel, -⟩ := hidle hp
    rw [hsel, count_true_noSelect]
    exact Nat.zero_le 1
  · obtain ⟨-, hsel, -⟩ := hbusy hp
    rw [hsel]
    exact count_true_oneHot_le nr c.actId

/-- Settles O29: two lines up agree with no phase, and they are the first disturbance the refusal names. -/
theorem twoSelectLinesAreRefused : Obligations.TwoSelectLinesAreRefused := by
  intro s htwo
  have hbad : ¬ bundleOk s.params.nr s.ctl s.bundle = true := fun hok =>
    absurd (count_select_le_of_bundleOk hok) (Nat.not_le.mpr htwo)
  rw [respondersTurn, if_neg hbad, bundleRefusal, if_pos htwo]

end Sys2Proof.Machine
end

section
/-! PROOFS. The statements of 42_wait_state_responder.md: the rules of one responder (R142 to R148), what the controller
reads of a responder, and the block against any responders (R150). -/
namespace Sys2Proof.Machine

/-! ### One responder -/

section Respond
variable {p : Params} {k : Nat} {q : Port} {r : Responder}

theorem respond_of_unselected (hsel : q.sel = false) : respond p k q r = respondIgnore r := if_pos hsel

theorem respond_of_write (hsel : q.sel = true) (hen : q.enable = true) (hw : r.waitCnt = .num 0)
    (hwe : q.writeEnable = true) : respond p k q r = respondWrite q r := by
  simp [respond, hsel, hen, hw, hwe]

theorem respond_of_read (hsel : q.sel = true) (hen : q.enable = true) (hw : r.waitCnt = .num 0)
    (hwe : q.writeEnable = false) : respond p k q r = respondRead q r := by
  simp [respond, hsel, hen, hw, hwe]

theorem respondWait_of_num {n : Nat} (hw : r.waitCnt = .num (n + 1)) :
    respondWait r = ({ r with waitCnt := .num n }, Drive.quiet) := by
  rw [respondWait, hw]
  rfl

/-- `NEVER` stays `NEVER` (42_wait_state_responder.md R143). -/
theorem respondWait_of_never (hw : r.waitCnt = .never) : respondWait r = (r, Drive.quiet) := by
  rw [respondWait, hw, waitPred, ← hw]

/-- A responder raises `ready` only where it is addressed in `ACCESS` (42_wait_state_responder.md R140). -/
theorem respond_ready_addressed (hr : (respond p k q r).2.ready = true) : q.sel = true ∧ q.enable = true := by
  obtain ⟨hen, -⟩ := respond_ready p k q r hr
  cases hsel : q.sel with
  | true => exact ⟨rfl, hen⟩
  | false =>
    rw [respond_of_unselected hsel] at hr
    cases hr

end Respond

/-- Settles O31: the wires and the wait count pick the rule. -/
theorem responderFollowsItsRules : Obligations.ResponderFollowsItsRules := by
  intro p k q r
  refine ⟨fun hsel hen => ?_, fun n hsel hen hw => ?_, fun hsel hen hw => ?_, fun hsel hen hw hwe => ?_,
    fun hsel hen hw hwe => ?_, fun hsel => ?_⟩
  · exact respond_of_setup hsel hen
  · exact (respond_of_wait hsel hen (by simp [hw])).trans (respondWait_of_num hw)
  · exact (respond_of_wait hsel hen (by simp [hw])).trans (respondWait_of_never hw)
  · exact respond_of_write hsel hen hw hwe
  · exact respond_of_read hsel hen hw hwe
  · exact respond_of_unselected hsel

/-- Settles O32: no rule raises `error`, and the rules are chosen and carried out without a look at `strobe`. -/
theorem responderNeverErrsAndNeverReadsStrobe : Obligations.ResponderNeverErrsAndNeverReadsStrobe :=
  fun p k _ q r => ⟨respond_error p k q r, rfl⟩

/-! ### What the controller reads of a responder -/

/-- The state whose bundle shows other values of the fields that the controller does not read. -/
def State.showing (readData : Nat) (error : Bool) (strobe : Nat) (s : State) : State :=
  { s with bundle := { s.bundle with readData := readData, error := error, strobe := strobe } }

/-- The operand tests come before whatever follows. -/
theorem andThen_checked (ts : List (Bool × ConfigError)) (go : Out) (f : State → Out) :
    andThen (checked noMeaning ts go) f = checked noMeaning ts (andThen go f) := by
  unfold checked
  cases firstError ts <;> rfl

/-- `advance` carries the fields that it does not read along, if the command's own rule does
(40_bus_controller_fsm.md R104 to R106). -/
theorem advance_showing {d z : Nat} {e : Bool} {s : State} {o o' : Out}
    (h : o' = andThen o fun t => .next (t.showing d e z)) :
    advance o' (s.showing d e z) = andThen (advance o s) fun t => .next (t.showing d e z) := by
  unfold advance
  rw [show (s.showing d e z).ctl = s.ctl from rfl, show (s.showing d e z).bundle.ready = s.bundle.ready from rfl]
  cases s.ctl.phase with
  | idle => exact h
  | setup => rfl
  | access => cases s.bundle.ready <;> rfl

/-- Settles O26: in phase `IDLE` the tests and the accepted command read the parameters, the operands and `write_data`
only. -/
theorem advanceReadsOnlyReadyOfTheResponder : Obligations.AdvanceReadsOnlyReadyOfTheResponder := by
  intro s i d z e
  cases i with
  | idle k a w => exact advance_showing (s := s) rfl
  | read k a w => exact advance_showing (s := s) (by rw [andThen_checked]; rfl)
  | write k a w => exact advance_showing (s := s) (by rw [andThen_checked]; rfl)

/-! ### The turn against any responders -/

/-- The state after step 3 against responders that drive `ds` (41_signal_bundle_mux.md R133). -/
def State.driven (ds : List Drive) (s : State) : State :=
  s.setBundle (s.bundle.drive (returnPath s.bundle.select ds))

theorem turnAgainst_of_ok {s : State} (h : bundleOk s.params.nr s.ctl s.bundle = true) (ds : List Drive) :
    turnAgainst ds s = .next (s.driven ds) := if_pos h

theorem turnAgainst_of_not_ok {s : State} (h : ¬ bundleOk s.params.nr s.ctl s.bundle = true) (ds : List Drive) :
    turnAgainst ds s = .refused (bundleRefusal s.ctl s.bundle) := if_neg h

/-- What the spec's own responders drive, one after the other. -/
def State.drives (s : State) : List Drive := (respondFrom s.params s.bundle 0 s.responders).map Prod.snd

theorem length_drives (s : State) : s.drives.length = s.responders.length := by
  rw [← length_respondAll, State.drives, respondAll, List.length_map, List.length_map]

theorem getElem?_drives (s : State) (k : Nat) :
    s.drives[k]? = (s.responders[k]?).map fun r => (respond s.params k (s.bundle.port k) r).2 := by
  simp only [State.drives, List.getElem?_map, getElem?_respondFrom, Option.map_map, Nat.zero_add]
  rfl

/-- The responders' turn drives the return path, and replaces the responders. -/
theorem respondAll_eq_driven (s : State) :
    respondAll s = (s.driven s.drives).setResponders (respondAll s).responders := rfl

/-- Settles O33, with what the spec's own responders drive. -/
theorem waitStateRespondersAreAmongAllResponders : Obligations.WaitStateRespondersAreAmongAllResponders := by
  intro s
  refine ⟨s.drives, length_drives s, fun k d hd hready => ?_, ?_⟩
  · rw [getElem?_drives] at hd
    obtain ⟨r, -, rfl⟩ := Option.map_eq_some_iff.mp hd
    exact respond_ready_addressed hready
  · by_cases hok : bundleOk s.params.nr s.ctl s.bundle = true
    · rw [respondersTurn_of_ok hok, turnAgainst_of_ok hok, andThen_next, ← respondAll_eq_driven]
    · rw [respondersTurn_of_not_ok hok, turnAgainst_of_not_ok hok, andThen_refused]

/-! ### One cycle against any responders -/

/-- `advance` keeps the lines in agreement with the phase (10_state.md R22). -/
theorem exec_bundleOk {i : Instr} {s t : State} (hok : bundleOk s.params.nr s.ctl s.bundle = true)
    (h : exec i s = .next t) : bundleOk t.params.nr t.ctl t.bundle = true := by
  rcases exec_cases h with ⟨-, -, rfl⟩ | ⟨hp, hi, hwf, rfl⟩ | ⟨hp, rfl⟩ | ⟨-, -, rfl⟩ | ⟨hp, -, rfl⟩
  · exact hok
  · exact acceptTransfer_bundleOk hok hp _ (responderId_lt_of_wf hwf hi) _ _
  · exact setupToAccess_bundleOk (s := s) hok hp
  · exact hok
  · exact accessToIdle_bundleOk (s := s) hok hp

/-- From lines that agree with the phase no cycle stops that `advance` lets pass. -/
theorem cycleAgainst_of_exec {s t : State} (hok : bundleOk s.params.nr s.ctl s.bundle = true)
    (h : exec s.request.toInstr s = .next t) (ds : List Drive) : cycleAgainst ds s = .next (t.driven ds) := by
  rw [cycleAgainst, h, andThen_next, turnAgainst_of_ok (exec_bundleOk hok h)]

/-- A transfer with responder `k` of `n` is in progress. -/
structure State.Transfers (s : State) (n k : Nat) : Prop where
  count : s.params.nr = n
  actId : s.ctl.actId = k
  ok : bundleOk s.params.nr s.ctl s.bundle = true
  busy : s.ctl.phase ≠ .idle

/-- What responders drive ends no transfer. -/
theorem State.Transfers.driven {s : State} {n k : Nat} (h : s.Transfers n k) (ds : List Drive) :
    (s.driven ds).Transfers n k := { h with }

/-- No cycle in `ACCESS` has ended with `ready` up. What a responder drives in `SETUP` is not read
(40_bus_controller_fsm.md R104). -/
def State.Unanswered (s : State) : Prop := s.ctl.phase = .access → s.bundle.ready = false

/-- What the return path has put on the bundle. -/
def Bundle.returned (b : Bundle) : Drive := { ready := b.ready, readData := b.readData, error := b.error }

@[simp] theorem driven_returned (ds : List Drive) (s : State) :
    (s.driven ds).bundle.returned = returnPath s.bundle.select ds := rfl

/-- In a transfer the one line up is that of its responder (10_state.md R22). -/
theorem State.Transfers.lines {s : State} {n k : Nat} (h : s.Transfers n k) :
    k < n ∧ s.bundle.select = oneHot n k ∧ s.bundle.enable = decide (s.ctl.phase = .access) := by
  obtain ⟨rfl, rfl, hok, hbusy⟩ := h
  exact (bundleOk_iff.mp hok).2 hbusy

/-- The cycle that accepts the request (40_bus_controller_fsm.md R102, R103). -/
theorem cycleAgainst_accepts {s : State} (hok : bundleOk s.params.nr s.ctl s.bundle = true)
    (hp : s.ctl.phase = .idle) (hcmd : s.request.command ≠ .idle) (hwf : s.request.toInstr.wf s.params = true)
    (ds : List Drive) :
    ∃ t, cycleAgainst ds s = .next t ∧ t.ctl.phase = .setup ∧ t.Transfers s.params.nr s.request.responderId := by
  have hexec := exec_of_accept hp (by rwa [toInstr_command]) hwf
  exact ⟨_, cycleAgainst_of_exec hok hexec ds, rfl,
    State.Transfers.driven ⟨rfl, toInstr_responderId _, exec_bundleOk hok hexec, Phase.noConfusion⟩ ds⟩

/-- Until `ready` is up in `ACCESS`, `advance` leads to `ACCESS` and holds everything else
(40_bus_controller_fsm.md R104, R105). -/
theorem exec_of_unanswered {s : State} {n k : Nat} (h : s.Transfers n k) (hu : s.Unanswered) (i : Instr) :
    exec i s = .next (setupToAccess s) := by
  cases hp : s.ctl.phase with
  | idle => exact absurd hp h.busy
  | setup => exact exec_of_setup hp
  | access => exact exec_of_low h.ok h.busy (hu hp) i

/-- Until `ready` is up, each further cycle is one in `ACCESS`, and the bundle shows what the addressed responder drives
in it (40_bus_controller_fsm.md R104, R105; 41_signal_bundle_mux.md R133). -/
theorem cycleAgainst_of_unanswered {s : State} {n k : Nat} (h : s.Transfers n k) (hu : s.Unanswered)
    (ds : List Drive) :
    ∃ t, cycleAgainst ds s = .next t ∧ t.Transfers n k ∧ t.ctl.phase = .access ∧
      t.bundle.returned = (ds[k]?).getD Drive.quiet := by
  have hexec := exec_of_unanswered h hu s.request.toInstr
  have hbusy : (setupToAccess s).Transfers n k := ⟨h.count, h.actId, exec_bundleOk h.ok hexec, Phase.noConfusion⟩
  obtain ⟨hk, hsel, -⟩ := hbusy.lines
  exact ⟨_, cycleAgainst_of_exec h.ok hexec ds, hbusy.driven ds, rfl,
    by rw [driven_returned, hsel, returnPath_oneHot hk]⟩

/-- The cycle after `ready` lowers `enable` and the line, whatever the responders drive in it
(40_bus_controller_fsm.md R106, 41_signal_bundle_mux.md R134). -/
theorem cycleAgainst_of_answered {s : State} {n k : Nat} (h : s.Transfers n k) (hp : s.ctl.phase = .access)
    (hr : s.bundle.ready = true) (ds : List Drive) :
    ∃ t, cycleAgainst ds s = .next t ∧ t.ctl.phase = .idle ∧ t.bundle.select = noSelect n ∧
      t.bundle.enable = false ∧ t.bundle.ready = false := by
  obtain ⟨-, hsel, -⟩ := h.lines
  have hdown : s.bundle.select.set s.ctl.actId false = noSelect n := by rw [hsel, h.actId, set_oneHot]
  have hreturn : ((accessToIdle s).driven ds).bundle.returned = Drive.quiet := by
    rw [driven_returned, accessToIdle, hdown, returnPath_noSelect]
  exact ⟨_, cycleAgainst_of_exec h.ok (exec_of_ready hp hr) ds, rfl, hdown, rfl, congrArg Drive.ready hreturn⟩

/-! ### Whole transfers against any responders -/

/-- A run that is one cycle longer, split at its last cycle. -/
theorem cyclesAgainst_snoc {xs : List (List Drive)} {ds : List Drive} {s t u : State}
    (hxs : cyclesAgainst xs s = .next t) (hds : cycleAgainst ds t = .next u) :
    cyclesAgainst (xs ++ [ds]) s = .next u := by
  rw [cyclesAgainst_append, hxs, andThen_next, cyclesAgainst, hds]
  rfl

/-- Through cycles in which the addressed responder withholds `ready` the transfer goes on, in `ACCESS`
(40_bus_controller_fsm.md R105). -/
theorem cyclesAgainst_wait {s : State} {n k : Nat} (h : s.Transfers n k) (hu : s.Unanswered)
    {waits : List (List Drive)} (hw : ∀ ds ∈ waits, ∀ d, ds[k]? = some d → d.ready = false) :
    ∃ t, cyclesAgainst waits s = .next t ∧ t.Transfers n k ∧ t.Unanswered ∧
      (waits ≠ [] → t.ctl.phase = .access) := by
  induction waits using List.reverseRecOn with
  | nil => exact ⟨s, rfl, h, hu, absurd rfl⟩
  | append_singleton waits ds ih =>
    obtain ⟨t, ht, hbusy, hlow, -⟩ := ih fun ds' hds' => hw ds' (List.mem_append_left _ hds')
    obtain ⟨u, hcycle, hbusy', hp, hreturn⟩ := cycleAgainst_of_unanswered hbusy hlow ds
    have hready : u.bundle.ready = ((ds[k]?).getD Drive.quiet).ready := congrArg Drive.ready hreturn
    have hlow' : u.bundle.ready = false := by
      cases hd : ds[k]? with
      | none => rw [hready, hd]; rfl
      | some d => rw [hready, hd]; exact hw ds (by simp) d hd
    exact ⟨u, cyclesAgainst_snoc ht hcycle, hbusy', fun _ => hlow', fun _ => hp⟩

/-- Settles O34: the request is accepted, the transfer goes on through the wait cycles, shows what the responder drives
in the cycle of `ready`, and ends in the cycle after. -/
theorem everyResponderIsWaitedFor : Obligations.EveryResponderIsWaitedFor := by
  intro s first last after waits done hok hp hcmd hwf hwaits hlast hdone line
  obtain ⟨t, ht, hsetup, hbusy⟩ := cycleAgainst_accepts hok hp hcmd hwf first
  have hrun : ∀ xs, cyclesAgainst (first :: xs) s = cyclesAgainst xs t := fun xs => by
    rw [cyclesAgainst, ht, andThen_next]
  have hopen : t.Unanswered := fun haccess => by simp [hsetup] at haccess
  obtain ⟨w, hw, hbusyw, hopenw, -⟩ := cyclesAgainst_wait hbusy hopen hwaits
  obtain ⟨u, hu, hbusyu, haccess, hreturn⟩ := cycleAgainst_of_unanswered hbusyw hopenw last
  rw [hlast, Option.getD_some] at hreturn
  have hready : u.bundle.ready = true := (congrArg Drive.ready hreturn).trans hdone
  obtain ⟨v, hv, hend⟩ := cycleAgainst_of_answered hbusyu haccess hready after
  have hrunu : cyclesAgainst (first :: waits ++ [last]) s = .next u := cyclesAgainst_snoc ((hrun waits).trans hw) hu
  refine ⟨⟨t, hrun [], hsetup, ?_⟩, fun n hn => ?_, ⟨u, hrunu, haccess, ?_⟩, v, ?_, hend⟩
  · obtain ⟨-, hsel, hen⟩ := hbusy.lines
    exact ⟨hsel, by simpa [hsetup] using hen⟩
  · obtain ⟨x, hx, hbusyx, hopenx, haccessx⟩ :=
      cyclesAgainst_wait hbusy hopen fun ds (hds : ds ∈ waits.take (n + 1)) => hwaits ds (List.mem_of_mem_take hds)
    have hpx : x.ctl.phase = .access := haccessx (List.ne_nil_of_length_pos (by simp; omega))
    obtain ⟨-, hsel, hen⟩ := hbusyx.lines
    exact ⟨x, (hrun _).trans hx, hpx, hsel, by simpa [hpx] using hen, hopenx hpx⟩
  · obtain ⟨-, hsel, hen⟩ := hbusyu.lines
    exact ⟨hsel, by simpa [haccess] using hen, hready, congrArg Drive.readData hreturn, congrArg Drive.error hreturn⟩
  · simpa using cyclesAgainst_snoc hrunu hv

end Sys2Proof.Machine
end

section
/-! PROOFS. The statements of 43_waveform_sampler.md: the tracked names (R161), what a sample and a whole cycle do to the
logs (R162, R172), the characters of the waves (R166 to R168), and what a call of `render` returns and leaves alone
(R165, R171). -/
namespace Sys2Proof.Machine

/-! ### Samples and logs -/

theorem sample_logs_length (b : Bundle) (r : Recorder) : (r.sample b).logs.length = r.logs.length :=
  List.length_map _

/-- A sample puts one value at the end of each log and keeps what stands before it (43_waveform_sampler.md R162). -/
theorem sample_getElem? {b : Bundle} {r : Recorder} {i : Nat} {l : Log} (h : r.logs[i]? = some l) :
    (r.sample b).logs[i]? = some ⟨l.name, l.values ++ [trackValue r.count b l.name]⟩ := by
  simp [Recorder.sample, h]

/-- Settles O41: the value that a sample appends, name by name. -/
theorem sampleLogsEveryField : Obligations.SampleLogsEveryField := by
  refine fun b r => ⟨sample_count b r, sample_logs_length b r, fun i l hl => ?_⟩
  rw [sample_getElem? hl]
  cases l.name with
  | clock => rfl
  | field f => cases f <;> rfl

/-- The host's samples, early and late, are all that a cycle does to the recorder, a reset cycle included
(43_waveform_sampler.md R160, R172). -/
theorem step_recorder {s t : State} (h : step s = .next t) :
    ∃ early : Bundle,
      t.recorder = (s.recorder.sampleTimes early s.nextInput.earlySamples).sampleTimes t.bundle s.nextInput.samples := by
  obtain ⟨s1, hacts, hblock⟩ := step_cases h
  obtain ⟨-, -, -, hhost, -⟩ := hostActs_frame hacts
  rw [takeInput_recorder] at hhost
  rw [← hhost]
  rcases hblock with ⟨-, rfl⟩ | ⟨-, s2, hexec, -, rfl⟩
  · exact ⟨(resetCycle s1).bundle, rfl⟩
  · obtain ⟨-, -, -, hadvance, -⟩ := exec_frame hexec
    rw [← hadvance]
    exact ⟨s2.bundle, rfl⟩

/-- Settles O42: a cycle appends the early samples and then the late ones. -/
theorem logsOnlyGrow : Obligations.LogsOnlyGrow := by
  intro s t h
  obtain ⟨early, hrecorder⟩ := step_recorder h
  rw [hrecorder]
  refine ⟨by simp [Nat.add_assoc], by simp, fun i l hl => ?_⟩
  obtain ⟨first, hfirst, hl₁⟩ := sampleTimes_extends early s.nextInput.earlySamples _ i l hl
  obtain ⟨last, hlast, hl₂⟩ := sampleTimes_extends t.bundle s.nextInput.samples _ i _ hl₁
  exact ⟨first ++ last, by simp [hfirst, hlast], by rw [hl₂, List.append_assoc]⟩

/-! ### The tracked names -/

/-- The names around the select lines' (43_waveform_sampler.md R161). -/
theorem trackNames_eq (n : Nat) :
    trackNames n = .clock :: .field .address :: .field .writeEnable ::
      ((List.range n).map (fun k => .field (.select k)) ++
        [.field .enable, .field .writeData, .field .readData, .field .ready, .field .error, .field .strobe]) := by
  simp [trackNames, bundleFields, Function.comp_def]

theorem trackNames_select {n k : Nat} (h : k < n) : (trackNames n)[3 + k]? = some (.field (.select k)) := by
  simp [trackNames_eq, Nat.add_comm 3 k, List.getElem?_append, h]

/-- The names after the select lines' (43_waveform_sampler.md R161). -/
theorem trackNames_after_select (n j : Nat) :
    (trackNames n)[n + j + 3]? =
      [Track.field .enable, .field .writeData, .field .readData, .field .ready, .field .error, .field .strobe][j]? := by
  simp [trackNames_eq, List.getElem?_append]

/-- Settles O43: three names, the select lines', and six names. -/
theorem trackedNamesInOrder : Obligations.TrackedNamesInOrder := fun n =>
  ⟨by simp [trackNames_eq], rfl, rfl, rfl, fun _ hk => ⟨trackNames_select hk, rfl⟩,
    trackNames_after_select n 0, trackNames_after_select n 1, trackNames_after_select n 2, trackNames_after_select n 3,
    trackNames_after_select n 4, trackNames_after_select n 5, rfl, by decide, by decide⟩

/-! ### Waves -/

/-- The clock's wave, character by character (43_waveform_sampler.md R166). -/
theorem clockWaveFrom_getElem? (w : WaveStyle) (i n j : Nat) :
    (clockWaveFrom w i n)[j]? = if j < n then some (if (i + j) % 2 = 0 then w.clkA else w.clkB) else none := by
  induction n generalizing i j with
  | zero => rfl
  | succ n ih =>
    cases j with
    | zero => simp [clockWaveFrom]
    | succ j => simp [clockWaveFrom, ih, Nat.add_assoc, Nat.add_comm 1 j]

/-- Only an entry of kind `value` has data (30_encoding.md R79). -/
theorem dataPair_of_ne_value (w : WaveStyle) {l : Log} (h : trackKind l.name ≠ .value) : dataPair w l = [] := by
  unfold dataPair
  cases hkind : trackKind l.name with
  | clock => rfl
  | level => rfl
  | value => exact absurd hkind h

theorem waveOf_of_clock (w : WaveStyle) (count : Nat) {l : Log} (h : trackKind l.name = .clock) :
    waveOf w count l = clockWaveFrom w 0 count := by
  simp [waveOf, h]

/-- Settles O46, from the characters of the clock's wave. -/
theorem clockWaveAlternates : Obligations.ClockWaveAlternates := by
  intro w count l hkind
  rw [waveOf_of_clock w count hkind]
  exact ⟨fun i => by simpa using clockWaveFrom_getElem? w 0 count i, dataPair_of_ne_value w (by simp [hkind])⟩

/-- The value that stands before index `i` of a list which the value `prev` precedes. -/
def valueBefore (prev : Option Nat) (vs : List Nat) : Nat → Option Nat
  | 0 => prev
  | i + 1 => vs[i]?

theorem valueBefore_cons_succ (prev : Option Nat) (v : Nat) (vs : List Nat) (i : Nat) :
    valueBefore prev (v :: vs) (i + 1) = valueBefore (some v) vs i := by
  cases i <;> rfl

/-- Each character of a wave is made of its value and the value before it (43_waveform_sampler.md R167, R168). -/
theorem waveFrom_getElem? (w : WaveStyle) (mark : Nat → Char) (prev : Option Nat) (vs : List Nat) (i : Nat) :
    (waveFrom w mark prev vs)[i]? = vs[i]?.map (waveChar w mark (valueBefore prev vs i)) := by
  induction vs generalizing prev i with
  | nil => rfl
  | cons v vs ih =>
    cases i with
    | zero => rfl
    | succ i => simpa [waveFrom, valueBefore_cons_succ] using ih (some v) i

section Wave
variable {w : WaveStyle} {mark : Nat → Char} {vs : List Nat}

theorem waveFrom_first {v : Nat} (hv : vs[0]? = some v) : (waveFrom w mark none vs)[0]? = some (mark v) := by
  simp [waveFrom_getElem?, hv, valueBefore, waveChar]

theorem waveFrom_next {i u v : Nat} (hu : vs[i]? = some u) (hv : vs[i + 1]? = some v) :
    (waveFrom w mark none vs)[i + 1]? = some (if v = u then w.cont else mark v) := by
  simp [waveFrom_getElem?, hu, hv, valueBefore, waveChar, eq_comm]

end Wave

theorem waveOf_of_level (w : WaveStyle) (count : Nat) {l : Log} (h : trackKind l.name = .level) :
    waveOf w count l = waveFrom w (levelMark w) none l.numbers := by
  simp [waveOf, h, levelWave]

theorem waveOf_of_value (w : WaveStyle) (count : Nat) {l : Log} (h : trackKind l.name = .value) :
    waveOf w count l = waveFrom w (fun _ => w.val) none l.numbers := by
  simp [waveOf, h, valueWave]

/-- Settles O47, from the characters of a wave with the level markers. -/
theorem levelWaveCharacters : Obligations.LevelWaveCharacters := by
  intro w count l hkind
  rw [waveOf_of_level w count hkind]
  exact ⟨by simp, fun _ => waveFrom_first, fun _ _ _ => waveFrom_next, dataPair_of_ne_value w (by simp [hkind])⟩

/-- The listed values are those at the indices whose value is not the one before it (43_waveform_sampler.md R168). -/
theorem changesFrom_eq_filter (prev : Option Nat) (vs : List Nat) :
    changesFrom prev vs =
      ((List.range vs.length).filter fun i => decide (valueBefore prev vs i ≠ vs[i]?)).filterMap fun i => vs[i]? := by
  induction vs generalizing prev with
  | nil => rfl
  | cons v vs ih =>
    have later : ((List.map Nat.succ (List.range vs.length)).filter fun i =>
          decide (valueBefore prev (v :: vs) i ≠ (v :: vs)[i]?)).filterMap (fun i => (v :: vs)[i]?) =
        changesFrom (some v) vs := by
      simp [ih (some v), List.filter_map, List.filterMap_map, Function.comp_def, valueBefore_cons_succ]
    rw [List.length_cons, List.range_succ_eq_map, List.filter_cons, changesFrom]
    by_cases hprev : prev = some v <;> simpa [valueBefore, hprev] using later.symm

/-- Nothing precedes the first value of a log, so it is listed whatever it is. -/
theorem changesFrom_none (vs : List Nat) :
    changesFrom none vs =
      ((List.range vs.length).filter fun i => decide (i = 0 ∨ vs[i - 1]? ≠ vs[i]?)).filterMap fun i => vs[i]? := by
  rw [changesFrom_eq_filter]
  congr 1
  refine List.filter_congr fun i hi => decide_eq_decide.mpr ?_
  cases i with
  | zero => simp [valueBefore, List.getElem?_eq_getElem (List.mem_range.mp hi)]
  | succ i => simp [valueBefore]

/-- Settles O48: the characters of a wave with one marker, and the values that differ from the one before them. -/
theorem valueWaveAndItsData : Obligations.ValueWaveAndItsData := by
  intro w count l hkind
  rw [waveOf_of_value w count hkind, ← length_numbers, ← changesFrom_none]
  exact ⟨by simp, fun _ => waveFrom_first, fun _ _ _ => waveFrom_next,
    by simp [dataPair, hkind, valueData, Function.comp_def]⟩

/-! ### What `render` returns -/

/-- What is wrong with a log, if it holds an unsupported value: its name and its first such value
(43_waveform_sampler.md R171). -/
def Log.complaint (l : Log) : Option (Track × String) := (unsupportedIn l.values).map fun what => (l.name, what)

theorem unsupportedIn_eq_none {vs : List Sampled} : unsupportedIn vs = none ↔ ∀ what, .unsupported what ∉ vs := by
  induction vs with
  | nil => simp [unsupportedIn]
  | cons v vs ih =>
    cases v with
    | bit b => simp [unsupportedIn, ih]
    | word n => simp [unsupportedIn, ih]
    | unsupported what => simpa [unsupportedIn] using ⟨what, fun h => absurd rfl h⟩

theorem unsupportedIn_of_first {vs us : List Sampled} {what : String} (h : unsupportedIn vs = none) :
    unsupportedIn (vs ++ .unsupported what :: us) = some what := by
  induction vs with
  | nil => rfl
  | cons v vs ih =>
    cases v with
    | bit b => exact ih h
    | word n => exact ih h
    | unsupported x => cases h

theorem firstUnsupported_eq_findSome? (ls : List Log) : firstUnsupported ls = ls.findSome? Log.complaint := by
  induction ls with
  | nil => rfl
  | cons l ls ih =>
    cases hv : unsupportedIn l.values <;> simp [firstUnsupported, Log.complaint, hv, ih]

theorem Log.complaint_eq_none {l : Log} : l.complaint = none ↔ ∀ what, .unsupported what ∉ l.values := by
  rw [Log.complaint, Option.map_eq_none_iff, unsupportedIn_eq_none]

/-- A log's complaint is of its first unsupported value. -/
theorem Log.complaint_of_first {l : Log} {vs us : List Sampled} {what : String}
    (h : l.values = vs ++ .unsupported what :: us) (hvs : ∀ x, .unsupported x ∉ vs) :
    l.complaint = some (l.name, what) := by
  rw [Log.complaint, h, unsupportedIn_of_first (unsupportedIn_eq_none.mpr hvs), Option.map_some]

theorem render_of_supported {r : Recorder} (h : firstUnsupported r.logs = none) (w : WaveStyle) :
    r.render w = .ok (artefact w r) := by
  simp [Recorder.render, h]

theorem render_of_unsupported {r : Recorder} {bad : Track × String} (h : firstUnsupported r.logs = some bad)
    (w : WaveStyle) : r.render w = .error bad := by
  simp [Recorder.render, h]

/-- Settles O44: `render` complains of what the first log with a complaint complains of. -/
theorem renderRefusesUnsupportedValues : Obligations.RenderRefusesUnsupportedValues := by
  refine fun w r => ⟨fun h => render_of_supported ?_ w, fun before after l vs us what hr hbefore hl hvs => ?_⟩
  · rw [firstUnsupported_eq_findSome?, List.findSome?_eq_none_iff]
    exact fun l hl => Log.complaint_eq_none.mpr (h l hl)
  · refine render_of_unsupported ?_ w
    rw [firstUnsupported_eq_findSome?, List.findSome?_eq_some_iff]
    exact ⟨before, l, after, hr, Log.complaint_of_first hl hvs, fun m hm => Log.complaint_eq_none.mpr (hbefore m hm)⟩

/-! ### What `render` leaves alone -/

/-- The next step is the cycle that the host has planned first. -/
theorem step_of_inputs_cons {s : State} {c : CycleInput} {rest : List CycleInput} (h : s.inputs = c :: rest) :
    step s = cycle c (s.setInputs rest) := by
  simp [step, State.nextInput, State.takeInput, h]

/-- In a cycle with `render` that call comes last, after everything the same cycle without it does
(43_waveform_sampler.md R165). -/
theorem cycle_render (c : CycleInput) (s : State) :
    cycle { c with render := true } s =
      andThen (cycle { c with render := false } s) fun t => .next (hostRender true t) := by
  have block (u : State) : blockCycle { c with render := true } u =
      andThen (blockCycle { c with render := false } u) fun t => .next (hostRender true t) := by
    rw [blockCycle, blockCycle, andThen_assoc]
    rfl
  simp only [cycle, andThen_assoc]
  congr 1
  funext u
  exact block u

/-- Settles O50: `render` writes what the host was returned and comes last. -/
theorem renderWritesNothing : Obligations.RenderWritesNothing := fun s c rest =>
  calc
    step { s with inputs := { c with render := true } :: rest } =
        cycle { c with render := true } (s.setInputs rest) := step_of_inputs_cons rfl
    _ = andThen (cycle { c with render := false } (s.setInputs rest)) fun t => .next (hostRender true t) :=
      cycle_render c _
    _ = andThen (step { s with inputs := { c with render := false } :: rest })
          fun t => .next { t with lastRender := some t.renderReply } := by
      rw [step_of_inputs_cons rfl]
      rfl

end Sys2Proof.Machine
end

section
/-! PROOFS. The statements of 44_construction.md: `make_transfer` (R190), the parts of a new session (R193, R196), and
the tests of R192 where the host writes a request and where `advance` meets one. -/
namespace Sys2Proof

/-! ### A store's listed words -/

/-- A write above every address of a canonical store adds its cell at the end. -/
theorem Memory.write_of_wf_append {m rest : Memory} {a v : Nat} (h : Memory.wf (m ++ (a, v) :: rest) = true) :
    Memory.write m a v = m ++ [(a, v)] := by
  induction m with
  | nil =>
    obtain ⟨hv, -, -⟩ := Memory.wf_cons.mp h
    simp [Memory.write, Memory.cons, hv]
  | cons c m ih =>
    obtain ⟨b, w⟩ := c
    obtain ⟨-, habove, htail⟩ := Memory.wf_cons.mp h
    have hba : b < a := habove (a, v) (by simp)
    simp [Memory.write, Nat.not_lt_of_gt hba, Nat.ne_of_gt hba, ih htail]

theorem Memory.foldl_write_of_wf {m cells : Memory} (h : Memory.wf (m ++ cells) = true) :
    cells.foldl (fun m c => Memory.write m c.1 c.2) m = m ++ cells := by
  induction cells generalizing m with
  | nil => simp
  | cons c cells ih =>
    rw [List.foldl_cons, Memory.write_of_wf_append h, ih (by simpa using h)]
    simp

/-- A canonical listing is the store of its own words (20_memory.md R51). -/
theorem Memory.ofList_of_wf {m : Memory} (h : Memory.wf m = true) : Memory.ofList m = m :=
  Memory.foldl_write_of_wf (m := []) h

/-! ### The bound on the id and the numbers of commands -/

theorem Params.idBound_of_transfer (p : Params) {c : Command} (hc : c ≠ .idle) : p.idBound c = p.nr := by
  cases c with
  | idle => exact absurd rfl hc
  | read => rfl
  | write => rfl

theorem commandOf_of_ge {k : Nat} (h : 3 ≤ k) : commandOf k = .error (.command k) := by
  simp [commandOf, show k ≠ 0 by omega, show k ≠ 1 by omega, show k ≠ 2 by omega]

end Sys2Proof

namespace Sys2Proof.Machine

/-! ### A new session -/

/-- In a new session every responder that exists is new (44_construction.md R196). -/
theorem construct_responder {p : Params} {address data responderId : Nat} {inputs : List CycleInput} {s : State}
    (h : construct p address data responderId inputs = .ok s) (k : Nat) :
    s.responders[k]? = if k < p.nr then some (newResponder p k) else none := by
  obtain ⟨b, q, -, rfl⟩ := construct_ok h
  by_cases hk : k < p.nr <;> simp [hk]

/-- A word of a new session is the one that `store_init` lists for its responder (44_construction.md R196). -/
theorem construct_memRead {p : Params} {address data responderId : Nat} {inputs : List CycleInput} {s : State}
    (h : construct p address data responderId inputs = .ok s) {k : Nat} (hk : k < p.nr) (a : Nat) :
    s.memRead k a = Memory.read (Memory.ofList ((p.storeInit[k]?).getD [])) a :=
  memRead_of_responder ((construct_responder h k).trans (if_pos hk)) a

/-- Settles O10: the parts are those that construction names, and a canonical listing is the store of its words. -/
theorem newPartsHoldTheirInitialValues : Obligations.NewPartsHoldTheirInitialValues := by
  intro p address data responderId inputs s h
  obtain ⟨b, q, hq, hs⟩ := construct_ok h
  obtain ⟨hb, -⟩ := makeTransfer_ok hq
  refine ⟨by rw [hs]; rfl, by rw [hs]; exact hb, by simp [hs], fun k r hr => ?_, fun k a hk hnone => ?_,
    fun k m a hk hsome hwf => ?_, by rw [hs]; rfl, by simp [hs, newRecorder]⟩
  · rw [construct_responder h, Option.ite_none_right_eq_some, Option.some_inj] at hr
    obtain ⟨-, rfl⟩ := hr
    exact ⟨rfl, rfl⟩
  · rw [construct_memRead h hk, hnone]
    rfl
  · rw [construct_memRead h hk, hsome, Option.getD_some, Memory.ofList_of_wf hwf]

/-- Settles O11, from the invariant of a block at rest. -/
theorem constructedSessionMeetsTheInvariant : Obligations.ConstructedSessionMeetsTheInvariant :=
  fun _ _ _ _ _ _ => construct_inv

/-! ### Tests in their order -/

/-- `make_transfer`'s tests, as the bounds of 44_construction.md R192 items 1 to 6 in their order. -/
theorem firstError_makeTransferTests (dwMax address data aw dw nr responderId : Nat) :
    firstError (makeTransferTests dwMax address data aw dw nr responderId) =
      if dw < 1 ∨ dwMax < dw then some (.dataWidth dw)
      else if aw < 1 then some (.addressWidth aw)
      else if nr < 1 then some (.responderCount nr)
      else if nr ≤ responderId then some (.responderId responderId)
      else if 2 ^ aw ≤ address then some (.address address)
      else if 2 ^ dw ≤ data then some (.data data)
      else none := by
  simp [makeTransferTests, firstError]

theorem checked_nil (stop : ConfigError → Out) (go : Out) : checked stop [] go = go := rfl

/-- The first test is made before the others. -/
theorem checked_cons (stop : ConfigError → Out) (bad : Bool) (e : ConfigError) (rest : List (Bool × ConfigError))
    (go : Out) : checked stop ((bad, e) :: rest) go = if bad then stop e else checked stop rest go := by
  cases bad <;> rfl

/-- A request's tests, as the bounds of 44_construction.md R192 items 4 to 6 in their order. -/
theorem checked_requestTests (stop : ConfigError → Out) (p : Params) (c : Command) (r a d : Nat) (go : Out) :
    checked stop (requestTests p c r a d) go =
      if p.idBound c ≤ r then stop (.responderId r)
      else if 2 ^ p.aw ≤ a then stop (.address a)
      else if 2 ^ p.dw ≤ d then stop (.data d)
      else go := by
  simp [requestTests, checked_cons, checked_nil]

/-- A second `make_transfer` with the session's widths replaces the request only (44_construction.md R190). -/
theorem newTransfer_of_ok {s : State} {a d r : Nat} {b : Bundle} {q : Request}
    (h : makeTransfer s.params.dwMax a d s.params.aw s.params.dw s.params.nr r = .ok (b, q)) :
    newTransfer a d s.params.aw s.params.dw s.params.nr r s = .next (s.setRequest q) := by
  simp [newTransfer, h]

/-- Settles O8: the first test that fails is the error, and if none does the bundle and the request are built. -/
theorem makeTransferTestsThenBuilds : Obligations.MakeTransferTestsThenBuilds := by
  refine ⟨fun dwMax address data aw dw nr responderId => ?_, fun s a d r b q h => newTransfer_of_ok h⟩
  rw [makeTransfer, firstError_makeTransferTests]
  split_ifs <;> rfl

/-! ### The host's writes of the request -/

/-- A write of all four fields with a number that names a command is a write of that whole request. -/
theorem writeFields_of_command {k : Nat} {c : Command} (hk : commandOf k = .ok c) (r a d : Nat) (s : State) :
    writeFields (some k) (some r) (some a) (some d) s =
      writeRequest { command := c, address := a, data := d, responderId := r } s := by
  simp [writeFields, hk]

/-- A number that names no command is refused before the operands are looked at (44_construction.md R192 item 7). -/
theorem writeFields_of_no_command {k : Nat} {e : ConfigError} (hk : commandOf k = .error e) (r a d : Option Nat)
    (s : State) : writeFields (some k) r a d s = .fault (.configurationError e s) := by
  simp [writeFields, hk, raiseConfiguration]

/-- A write of a whole Read or Write request is tested as 44_construction.md R192 says. -/
theorem writeRequest_of_transfer {c : Command} (hc : c ≠ .idle) (r a d : Nat) (s : State) :
    writeRequest { command := c, address := a, data := d, responderId := r } s =
      if s.params.nr ≤ r then .fault (.configurationError (.responderId r) s)
      else if 2 ^ s.params.aw ≤ a then .fault (.configurationError (.address a) s)
      else if 2 ^ s.params.dw ≤ d then .fault (.configurationError (.data d) s)
      else .next (s.setRequest { command := c, address := a, data := d, responderId := r }) := by
  rw [writeRequest, checked_requestTests, Params.idBound_of_transfer _ hc]
  rfl

/-- Settles O9: the command's number is tested first, then the operands. -/
theorem hostRequestWritesAreTested : Obligations.HostRequestWritesAreTested := by
  refine fun s k r a d => ⟨fun hk => ?_, fun hk => writeFields_of_no_command (commandOf_of_ge hk) _ _ _ s⟩
  rcases hk with rfl | rfl
  · exact (writeFields_of_command (k := 1) (c := .read) rfl r a d s).trans
      (writeRequest_of_transfer (by decide) r a d s)
  · exact (writeFields_of_command (k := 2) (c := .write) rfl r a d s).trans
      (writeRequest_of_transfer (by decide) r a d s)

/-! ### `advance` on an ill-formed request -/

/-- In phase `IDLE` a READ or WRITE is tested and, if it passes, accepted (40_bus_controller_fsm.md R102, R103). -/
theorem exec_of_transfer {s : State} {i : Instr} (hp : s.ctl.phase = .idle) (hi : i.command ≠ .idle) :
    exec i s =
      if s.params.nr ≤ i.responderId then noMeaning (.responderId i.responderId)
      else if 2 ^ s.params.aw ≤ i.address then noMeaning (.address i.address)
      else if 2 ^ s.params.dw ≤ i.data then noMeaning (.data i.data)
      else .next (acceptTransfer i.command i.responderId i.address (acceptedData i s) s) := by
  rw [← Params.idBound_of_transfer s.params hi, ← checked_requestTests]
  cases i with
  | idle r a d => exact absurd rfl hi
  | read r a d =>
    rw [exec, execRead, advance, hp]
    rfl
  | write r a d =>
    rw [exec, execWrite, advance, hp]
    rfl

/-- Settles O18: each clause is a branch of the tests. -/
theorem illFormedOperandsAreRefused : Obligations.IllFormedOperandsAreRefused := by
  intro s i hp hi
  rw [exec_of_transfer hp hi]
  refine ⟨fun hr => if_pos hr, fun hr ha => ?_, fun hr ha hd => ?_⟩
  · rw [if_neg (Nat.not_le.mpr hr), if_pos ha, noMeaning]
  · rw [if_neg (Nat.not_le.mpr hr), if_neg (Nat.not_le.mpr ha), if_pos hd, noMeaning]

end Sys2Proof.Machine
end

section
/-! PROOFS. The statements of 60_exceptions.md: which part of a cycle can stop a session (R200), the stall that never ends
(R202), the state that a failing act leaves (R204), and TraceFormatError, which comes back at every later `render`
(R205). -/
namespace Sys2Proof.Machine

/-! ### The endless stall -/

/-- One cycle of a stall: a wait count of NEVER stays NEVER (40_bus_controller_fsm.md R116), so the transfer stands as it
stood. -/
theorem step_stalls {s : State} {q : Request} {r : Responder} (h : s.Serves q r) (hw : r.waitCnt = .never) :
    ∃ t, step s = .next t ∧ t.ctl.phase = .access ∧ t.Serves q r ∧ ∀ k a, t.memRead k a = s.memRead k a := by
  obtain ⟨t, ht, hp, hserves⟩ := step_waits h (by simp [hw])
  have hsame : { r with waitCnt := waitPred r.waitCnt } = r := by rw [hw, waitPred, ← hw]
  exact ⟨t, ht, hp, hsame ▸ hserves, memRead_of_low h.inv ht hserves.low⟩

/-- A stalled transfer is in `ACCESS` after every number of further cycles. -/
theorem cycles_stall {s : State} {q : Request} {r : Responder} (h : s.Serves q r) (hw : r.waitCnt = .never) (n : Nat) :
    ∃ t, cycles (n + 1) s = .next t ∧ t.ctl.phase = .access ∧ t.Serves q r ∧
      ∀ k a, t.memRead k a = s.memRead k a := by
  induction n with
  | zero =>
    obtain ⟨t, ht, hstalled⟩ := step_stalls h hw
    exact ⟨t, cycles_succ_of_first ht, hstalled⟩
  | succ n ih =>
    obtain ⟨t, ht, -, hserves, hwords⟩ := ih
    obtain ⟨u, hu, hp, hserves', hwords'⟩ := step_stalls hserves hw
    exact ⟨u, cycles_succ_of_last ht hu, hp, hserves', fun k a => (hwords' k a).trans (hwords k a)⟩

/-- Settles O38: the responder draws NEVER in the first cycle, and the transfer stalls from the second on. -/
theorem stalledTransferNeverEnds : Obligations.StalledTransferNeverEnds := by
  intro s r h hp hcmd hhost hacts hr hdraw n
  obtain ⟨t, ht, -, hserves⟩ := step_accepts h hp hcmd hhost hacts hr
  obtain ⟨u, hu, haccess, hserves', hwords⟩ := cycles_stall hserves hdraw n
  have hun : cycles (n + 2) s = .next u := (cycles_succ_of_first ht).trans hu
  obtain ⟨-, hen⟩ := cycles_lines_of_busy hun hserves'.inv hserves'.holds hserves'.busy
  exact ⟨u, hun, haccess, by simpa [haccess] using hen, hserves'.low,
    fun k a => (hwords k a).trans (memRead_of_low h ht hserves.low k a)⟩

/-! ### TraceFormatError -/

/-- `render` fails exactly on a recorder with an unsupported value, and names the first one
(43_waveform_sampler.md R171). -/
theorem render_eq_error {w : WaveStyle} {r : Recorder} {bad : Track × String} :
    r.render w = .error bad ↔ firstUnsupported r.logs = some bad := by
  unfold Recorder.render
  cases firstUnsupported r.logs <;> simp

/-- A cycle's samples leave an unsupported value where it stands, so `render` fails after it as before it. -/
theorem step_render_error {s t : State} {bad : Track × String} (h : s.recorder.render s.params.wave = .error bad)
    (hs : step s = .next t) : t.recorder.render t.params.wave = .error bad := by
  obtain ⟨early, hrecorder⟩ := step_recorder hs
  rw [render_eq_error, hrecorder]
  exact firstUnsupported_sampleTimes (firstUnsupported_sampleTimes (render_eq_error.mp h) _ _) _ _

/-- What a call of `render` at the end of a cycle returns is the reply of the state the cycle ends in. -/
theorem step_lastRender {s t : State} (h : step s = .next t) (hcall : s.nextInput.render = true) :
    t.lastRender = some t.renderReply := by
  have finish (u : State) :
      (finishCycle s.nextInput u).lastRender = some (finishCycle s.nextInput u).renderReply := if_pos hcall
  obtain ⟨s1, -, ⟨-, rfl⟩ | ⟨-, s2, -, -, rfl⟩⟩ := step_cases h
  · exact finish _
  · exact finish _

/-- Settles O51: the recorder still fails, and `render` returns what the recorder gives. -/
theorem traceFormatErrorIsReturnedAgain : Obligations.TraceFormatErrorIsReturnedAgain := by
  intro s t name what h hs
  have hrender := step_render_error h hs
  exact ⟨hrender, fun hcall => by rw [step_lastRender hs hcall, State.renderReply, hrender]⟩

/-! ### Precise errors -/

/-- The first act that fails ends the host's acts, whatever was to follow it. -/
theorem hostActs_of_failing {before : List HostAct} {s u : State} {a : HostAct} {f : Fault}
    (hbefore : hostActs before s = .next u) (ha : hostAct u a = .fault f) (after : List HostAct) :
    hostActs (before ++ a :: after) s = .fault f := by
  rw [hostActs_append, hbefore, andThen_next, hostActs, ha, andThen_fault]

/-- Settles O53: the acts of the cycle end with the failing one, and the rest of the cycle does not come about. -/
theorem failingActsHaveNoEffect : Obligations.FailingActsHaveNoEffect := by
  refine ⟨fun s a f => hostAct_fault, fun s u before after a f hplan hbefore ha => ?_⟩
  obtain ⟨e, rfl⟩ := hostAct_fault ha
  exact ⟨e, by rw [step, cycle, hplan, hostActs_of_failing hbefore ha, andThen_fault]⟩

/-! ### What cannot stop a session -/

/-- A reset cycle stops nothing: once the host's acts are accepted, `rst` replaces `advance` and the responders' turn
(70_reset_and_hazards.md R220). -/
theorem step_of_rst {s s1 : State} (hrst : s.nextInput.rst = true)
    (hacts : hostActs s.nextInput.acts s.takeInput = .next s1) :
    step s = .next (finishCycle s.nextInput (sampleTimes s.nextInput.earlySamples (resetCycle s1))) := by
  rw [step, cycle, hacts, andThen_next, blockCycle, hrst, if_pos rfl, andThen_next]

/-- Settles O56: the acts keep the request well formed, and `advance` answers on a well-formed request. -/
theorem onlyTheHostCanStopASession : Obligations.OnlyTheHostCanStopASession := by
  intro s s1 h hacts
  cases hrst : s.nextInput.rst with
  | true => exact ⟨_, step_of_rst hrst hacts⟩
  | false =>
    have hinv : s1.Inv := hostActs_inv (takeInput_inv h) hacts
    obtain ⟨t, hexec⟩ := exec_next_of_wf hinv.request
    exact ⟨_, step_of_exec h hrst hacts hexec⟩

end Sys2Proof.Machine
end

section
/-! PROOFS. The statements of 70_reset_and_hazards.md: what a reset cycle sets and what it leaves (R221), and the one
field of the bundle that the host may write (R230). -/
namespace Sys2Proof.Machine

/-! ### A reset cycle -/

theorem resetCycle_responders_length (s : State) : (resetCycle s).responders.length = s.responders.length :=
  List.length_map _

/-- A reset clears a responder's wait count and keeps its store and its transfer counter. -/
theorem resetCycle_responder {s : State} {k : Nat} {r : Responder} (h : s.responders[k]? = some r) :
    (resetCycle s).responders[k]? = some { r with waitCnt := .num 0 } := by
  simp [resetCycle, h]

/-- The late samples of a cycle join the early ones, where the bundle is the same for both. -/
theorem finishCycle_sampleTimes_recorder (c : CycleInput) (n : Nat) (s : State) :
    (finishCycle c (sampleTimes n s)).recorder = s.recorder.sampleTimes s.bundle (n + c.samples) :=
  congrArg State.recorder (sampleTimes_sampleTimes n c.samples s)

/-- Settles O14: the host's acts leave all but the request and `strobe` as they were, the reset writes what it sets, and
the samples find the bundle it left. -/
theorem resetCycleRestoresTheBlock : Obligations.ResetCycleRestoresTheBlock := by
  intro s s1 hrst hacts
  obtain ⟨hparams, -, hresponders, hrecorder, -⟩ := hostActs_frame hacts
  rw [takeInput_params] at hparams
  rw [takeInput_responders] at hresponders
  rw [takeInput_recorder] at hrecorder
  refine ⟨_, step_of_rst hrst hacts, ?bundle, rfl, ?count, fun k r hr => ?responder, rfl, hparams, fun k a => ?word,
    ?recorder⟩
  case bundle => exact congrArg (fun p => zeroBundle p.nr) hparams
  case count => exact (resetCycle_responders_length s1).trans (congrArg List.length hresponders)
  case responder => exact resetCycle_responder (hresponders ▸ hr)
  case word => exact (resetCycle_memRead s1 k a).trans (memRead_congr (by rw [hresponders]) a)
  case recorder => rw [finishCycle_sampleTimes_recorder, resetCycle_recorder, hrecorder]; rfl

/-! ### The host and the bundle -/

theorem hostWritesBundle_of_ne {f : BundleField} (hf : f ≠ .strobe) (v : Nat) (s : State) :
    hostWritesBundle f v s = .refused (.hostDroveBundle f) := if_neg hf

theorem hostWritesBundle_strobe {s : State} {v : Nat} (hv : v < 2 ^ s.params.strbW) :
    hostWritesBundle .strobe v s = .next (s.setBundle { s.bundle with strobe := v }) := by
  rw [hostWritesBundle, if_pos rfl, if_pos (decide_eq_true hv)]

/-- A refusal of the first act is the refusal of the whole cycle, whatever was to follow. -/
theorem step_of_refused_act {s : State} {a : HostAct} {rest : List HostAct} {why : Refusal}
    (hplan : s.nextInput.acts = a :: rest) (ha : hostAct s.takeInput a = .refused why) : step s = .refused why := by
  rw [step, cycle, hplan, hostActs, ha, andThen_refused, andThen_refused]

/-- Settles O52: the write is tested for its field and then for its width, and a refused one ends the cycle. -/
theorem hostMayWriteOnlyStrobe : Obligations.HostMayWriteOnlyStrobe :=
  ⟨fun s _ v hf => hostWritesBundle_of_ne hf v s, fun _ _ => hostWritesBundle_strobe,
    fun s _ v _ hf hplan => step_of_refused_act hplan (hostWritesBundle_of_ne hf v s.takeInput)⟩

end Sys2Proof.Machine
end
